-- ==== Sys2Proof/Word.lean ====
section
/-! DEFINITION. The word types of the shift-register controller poller (SRCP): bits are numbered from 0, the
least significant (00_scope.md R11). -/

namespace Sys2Proof

/-- A byte: one micro-operation (30_encoding.md R76), or one byte lane of a bus word (20_memory.md R53). -/
abbrev Byte := BitVec 8

/-- 16 bits: a Raw Sample (00_scope.md R8) or an event word (30_encoding.md R79). -/
abbrev Half := BitVec 16

/-- 32 bits: a HOST register, a command word, a GPIO register (10_state.md R22, 20_memory.md R56). -/
abbrev Word := BitVec 32

end Sys2Proof
end

