-- ==== Sys2Proof/Config.lean ====
section
/-! DEFINITION. What an implementation of SRCP fixes (the parameters of 00_scope.md R9, which a model takes as
arguments: they stand in a field of the state) and the free values: the draws of 00_scope.md R7 and the
power-up values of 10_state.md R44, each an opaque constant of which nothing can be proved. -/

namespace Sys2Proof

/-- Where the GPIO register file holds one pin (20_memory.md R59): byte offsets from GPIO_BASE of its
function-select, set, clear and level registers, the position of its 3-bit function-select field, and its bit
in the other three registers. -/
structure PinMap where
  offFsel : Nat
  fpos    : Nat
  offSet  : Nat
  offClr  : Nat
  offLev  : Nat
  sbit    : Nat
  deriving DecidableEq, Repr

/-- The parameters no source gives (00_scope.md R9). `pins` has one entry for each pin, so NPINS is its length.
`fTick` is in hertz; the two bounds on durations are in nanoseconds, and no rule depends on them (70 R193). -/
structure Params where
  blockBase : Nat
  gpioBase  : Nat
  pinClk    : Nat
  pinLatch  : Nat
  pinData   : Nat
  fTick     : Nat
  tCmdMaxNs : Nat
  tBusMaxNs : Nat
  pins      : List PinMap
  deriving DecidableEq, Repr

/-- Free value: the answer to the n-th draw, where it is a `Grant` (40_line_ops.md R90; log 3). -/
opaque Config.freeGrant : Nat → Bool
/-- Free value: the answer to the n-th draw, where it is `SinkOk` (41_pin_config.md R101; log 3). -/
opaque Config.freeSinkOk : Nat → Bool
/-- Free value: the data line's level, where the n-th draw is `Level(DATA)` (40_line_ops.md R95; log 3). -/
opaque Config.freeLevel : Nat → Bool
/-- Free value: the ticks of a wait before they are held to the class's range, where the n-th draw is a wait's
duration (40_line_ops.md R96; log 3 and log 12). -/
opaque Config.freeWait : Nat → Nat
/-- Free value: EVT_READY at the tick of the n-th draw (43_decode.md R136; log 3). -/
opaque Config.freeReady : Nat → Bool
/-- Free value: the byte at an address of a function-select register that nothing has written since power-up
(10_state.md R44; log 4). -/
opaque Config.powerUpByte : Nat → Byte
/-- Free value: the output latch of a pin that nothing has written since power-up (10_state.md R44; log 4). -/
opaque Config.powerUpOut : Nat → Bool
/-- Free value: the bits of a GPIO read that no rule fixes, at the n-th draw (20_memory.md R62; log 6, log 7). -/
opaque Config.freeBusWord : Nat → Word
/-- Free value: the level of a pin that is no output, as the reference controller sees it (42_poll.md R121;
log 20). -/
opaque Config.undrivenLevel : Nat → Bool

end Sys2Proof
end

