-- ==== Sys2Proof/Syntax.lean ====
section
/-! DEFINITION. The syntax: the seven commands HOST writes to CMD (30_encoding.md R71) and the nineteen
micro-operations SEQ runs (30_encoding.md R77), one constructor for each row of the opcode table, and the named
operands they stand for. -/

namespace Sys2Proof

/-- The three lines SRCP uses (10_state.md R40). -/
inductive Line where
  | clk
  | latch
  | data
  deriving DecidableEq, Repr

/-- The two directions SRCP writes to a function-select field (20_memory.md R60). -/
inductive Dir where
  | input
  | output
  deriving DecidableEq, Repr

/-- The delay classes of WAIT (40_line_ops.md R96). -/
inductive DelayClass where
  | tLH
  | tLL
  | tCL
  | tCH
  deriving DecidableEq, Repr

/-- The seven opcodes of a command word (30_encoding.md R71); also what the register CUR holds (10_state.md R34). -/
inductive Op where
  | nop
  | configure
  | idle
  | poll
  | decode
  | decodeImm
  | teardown
  deriving DecidableEq, Repr

/-- The instructions: commands first, micro-operations after them, in the opcode table's order. -/
inductive Instr where
  /-- NOP (41_pin_config.md R100). -/
  | nop
  /-- CONFIGURE (41_pin_config.md R101). -/
  | configure
  /-- IDLE (41_pin_config.md R102). -/
  | idle
  /-- POLL (42_poll.md R110). -/
  | poll
  /-- DECODE (43_decode.md R137). -/
  | decode
  /-- DECODE_IMM imm (43_decode.md R138). -/
  | decodeImm (imm : BitVec 16)
  /-- TEARDOWN (41_pin_config.md R103). -/
  | teardown
  /-- WAIT T_LH (40_line_ops.md R96). -/
  | waitTLh
  /-- WAIT T_LL (40_line_ops.md R96). -/
  | waitTLl
  /-- WAIT T_CL (40_line_ops.md R96). -/
  | waitTCl
  /-- WAIT T_CH (40_line_ops.md R96). -/
  | waitTCh
  /-- LSET CLK (40_line_ops.md R93). -/
  | lsetClk
  /-- LSET LATCH (40_line_ops.md R93). -/
  | lsetLatch
  /-- LCLR CLK (40_line_ops.md R94). -/
  | lclrClk
  /-- LCLR LATCH (40_line_ops.md R94). -/
  | lclrLatch
  /-- SMPL DATA (40_line_ops.md R95). -/
  | smplData
  /-- LCFG CLK, OUT (40_line_ops.md R92). -/
  | lcfgClkOut
  /-- LCFG LATCH, OUT (40_line_ops.md R92). -/
  | lcfgLatchOut
  /-- LCFG DATA, IN (40_line_ops.md R92). -/
  | lcfgDataIn
  /-- LACQ CLK (40_line_ops.md R90). -/
  | lacqClk
  /-- LACQ LATCH (40_line_ops.md R90). -/
  | lacqLatch
  /-- LACQ DATA (40_line_ops.md R90). -/
  | lacqData
  /-- LREL CLK (40_line_ops.md R91). -/
  | lrelClk
  /-- LREL LATCH (40_line_ops.md R91). -/
  | lrelLatch
  /-- LREL DATA (40_line_ops.md R91). -/
  | lrelData
  /-- EMIT (43_decode.md R136). -/
  | emit
  deriving DecidableEq, Repr

/-- What HOST or SEQ hands to the decoder: a command word (30_encoding.md R70) or a micro-operation byte
(30_encoding.md R76). The two encodings are separate: no port carries a micro-operation. -/
inductive Code where
  | command (w : Word)
  | microOp (b : Byte)
  deriving DecidableEq, Repr

end Sys2Proof
end

