-- ==== Sys2Proof/WellFormed.lean ====
section
/-! DEFINITION. Well-formedness: of a command word (30_encoding.md R72), of a micro-operation byte
(30_encoding.md R77, R78), of a microprogram (40_line_ops.md R98), and of the parameters (00_scope.md R9).
Every term of `Instr` is well-formed by its type: its one operand is a 16-bit value. -/

namespace Sys2Proof

/-- The three fields of a command word (30_encoding.md R70). -/
abbrev commandOp (w : Word) : BitVec 4 := w.extractLsb' 0 4
/-- Bits [15:4] of a command word, reserved (30_encoding.md R70). -/
abbrev commandRsvd (w : Word) : BitVec 12 := w.extractLsb' 4 12
/-- Bits [31:16] of a command word (30_encoding.md R70). -/
abbrev commandImm (w : Word) : BitVec 16 := w.extractLsb' 16 16

/-- Clause 1 of 30_encoding.md R72: OP ≤ 0x6. -/
abbrev opcodeDefined (w : Word) : Bool := decide (commandOp w ≤ 6#4)
/-- Clause 2 of 30_encoding.md R72: RSVD = 0. -/
abbrev reservedClear (w : Word) : Bool := commandRsvd w == 0#12
/-- Clause 3 of 30_encoding.md R72: IMM16 = 0, or OP = 0x5. -/
abbrev immediateAllowed (w : Word) : Bool := commandImm w == 0#16 || commandOp w == 5#4
/-- A well-formed command word (30_encoding.md R72). -/
abbrev wellFormedWord (w : Word) : Bool := opcodeDefined w && reservedClear w && immediateAllowed w

/-- The fields of a micro-operation byte (30_encoding.md R76): UOPC. -/
abbrev microUopc (b : Byte) : BitVec 3 := b.extractLsb' 5 3
/-- LINE of a micro-operation byte (30_encoding.md R76). -/
abbrev microLine (b : Byte) : BitVec 2 := b.extractLsb' 3 2
/-- ARG of a micro-operation byte (30_encoding.md R76). -/
abbrev microArg (b : Byte) : BitVec 3 := b.extractLsb' 0 3

/-- A legal micro-operation byte, by its fields (30_encoding.md R77): which LINE and ARG each UOPC admits. -/
def legalMicroOp (b : Byte) : Bool :=
  let line := microLine b
  let arg := microArg b
  match (microUopc b).toNat with
  | 0 => line == 0#2 && decide (arg < 4#3)
  | 1 => (line == 0#2 || line == 1#2) && arg == 0#3
  | 2 => (line == 0#2 || line == 1#2) && arg == 0#3
  | 3 => line == 2#2 && arg == 0#3
  | 4 => ((line == 0#2 || line == 1#2) && arg == 1#3) || (line == 2#2 && arg == 0#3)
  | 5 => line != 3#2 && arg == 0#3
  | 6 => line != 3#2 && arg == 0#3
  | _ => line == 0#2 && arg == 0#3

/-- A microprogram taken as data is refused if one of its bytes is reserved (40_line_ops.md R98). -/
def legalMicroprogram (p : List Byte) : Bool := p.all fun b => legalMicroOp b

/-- One pin's positions keep the constraints of 00_scope.md R9. -/
def PinMap.wf (m : PinMap) : Bool :=
  m.offFsel % 4 == 0 && m.offSet % 4 == 0 && m.offClr % 4 == 0 && m.offLev % 4 == 0
    && decide (m.fpos ≤ 29) && decide (m.sbit ≤ 31)

/-- Two pins do not share a function-select field or a bit of a set, clear or level register. DEDUCED from
20_memory.md R59 to R62, where a field and a bit are one pin's (log 2). -/
def PinMap.apart (m n : PinMap) : Bool :=
  (m.offFsel != n.offFsel || decide (m.fpos + 3 ≤ n.fpos) || decide (n.fpos + 3 ≤ m.fpos))
    && (m.offSet != n.offSet || m.sbit != n.sbit)
    && (m.offClr != n.offClr || m.sbit != n.sbit)
    && (m.offLev != n.offLev || m.sbit != n.sbit)

/-- A register of one of the four kinds is no register of another kind. DEDUCED from 20_memory.md R59 (log 2). -/
def PinMap.kindsApart (m n : PinMap) : Bool :=
  m.offFsel != n.offSet && m.offFsel != n.offClr && m.offFsel != n.offLev
    && m.offSet != n.offClr && m.offSet != n.offLev && m.offClr != n.offLev

/-- Every pair of distinct positions of the list satisfies `r`. -/
def pairwiseAll (r : PinMap → PinMap → Bool) : List PinMap → Bool
  | [] => true
  | m :: ms => ms.all (fun n => r m n) && pairwiseAll r ms

/-- The parameters keep the constraints of 00_scope.md R9, and the register layout is one a register file can
have (log 2). -/
def Params.wf (ps : Params) : Bool :=
  ps.blockBase % 64 == 0 && ps.gpioBase % 4 == 0
    && ps.pinClk != ps.pinLatch && ps.pinClk != ps.pinData && ps.pinLatch != ps.pinData
    && decide (ps.pinClk < ps.pins.length) && decide (ps.pinLatch < ps.pins.length)
    && decide (ps.pinData < ps.pins.length) && decide (3 ≤ ps.pins.length)
    && decide (1000000 ≤ ps.fTick) && decide (ps.tBusMaxNs ≤ 1000)
    && ps.pins.all (fun m => m.wf)
    && pairwiseAll PinMap.apart ps.pins
    && ps.pins.all (fun m => ps.pins.all fun n => m.kindsApart n)

end Sys2Proof
end

