-- ==== Sys2Proof/Decode.lean ====
section
/-! DEFINITION. The decoder of command words (30_encoding.md R70 to R75) and of micro-operation bytes
(30_encoding.md R76 to R78), total and rejecting by name; after it the encoder, written from the same tables by
fields; and `decodeTableWord`, the decoder asked with a row's bits. -/

namespace Sys2Proof

/-- Why an encoding is no instruction. -/
inductive DecodeError where
  /-- OP is 0x7 to 0xF (30_encoding.md R73). -/
  | reservedOpcode
  /-- RSVD is not 0 (30_encoding.md R72). -/
  | reservedField
  /-- IMM16 is not 0 and OP is not 0x5 (30_encoding.md R72). -/
  | strayImmediate
  /-- The byte is none of 30_encoding.md R77's (30_encoding.md R78). -/
  | reservedMicroOp
  deriving DecidableEq, Repr

/-- The opcode map of 30_encoding.md R71. DECODE_IMM's operand is IMM16 unchanged (30_encoding.md R74). -/
def decodeOpcode (op : BitVec 4) (imm : BitVec 16) : Except DecodeError Instr :=
  match op.toNat with
  | 0 => .ok .nop
  | 1 => .ok .configure
  | 2 => .ok .idle
  | 3 => .ok .poll
  | 4 => .ok .decode
  | 5 => .ok (.decodeImm imm)
  | 6 => .ok .teardown
  | _ => .error .reservedOpcode

/-- A command word's instruction, or the clause of 30_encoding.md R72 it breaks. -/
def decodeCommand (w : Word) : Except DecodeError Instr :=
  let op := w.extractLsb' 0 4
  let imm := w.extractLsb' 16 16
  if w.extractLsb' 4 12 ≠ 0#12 then .error .reservedField
  else if op ≠ 5#4 ∧ op.toNat ≤ 6 ∧ imm ≠ 0#16 then .error .strayImmediate
  else decodeOpcode op imm

/-- The legal micro-operation bytes (30_encoding.md R77). -/
def microOpTable : List (Byte × Instr) :=
  [(0x00#8, .waitTLh), (0x01#8, .waitTLl), (0x02#8, .waitTCl), (0x03#8, .waitTCh),
   (0x20#8, .lsetClk), (0x28#8, .lsetLatch),
   (0x40#8, .lclrClk), (0x48#8, .lclrLatch),
   (0x70#8, .smplData),
   (0x81#8, .lcfgClkOut), (0x89#8, .lcfgLatchOut), (0x90#8, .lcfgDataIn),
   (0xA0#8, .lacqClk), (0xA8#8, .lacqLatch), (0xB0#8, .lacqData),
   (0xC0#8, .lrelClk), (0xC8#8, .lrelLatch), (0xD0#8, .lrelData),
   (0xE0#8, .emit)]

/-- A micro-operation byte's instruction (30_encoding.md R77); every other byte is reserved (R78). -/
def decodeMicroOp (b : Byte) : Except DecodeError Instr :=
  match microOpTable.lookup b with
  | some i => .ok i
  | none => .error .reservedMicroOp

/-- The decoder: a command word or a micro-operation byte. -/
def decode : Code → Except DecodeError Instr
  | .command w => decodeCommand w
  | .microOp b => decodeMicroOp b

/-- A command's word from its fields (30_encoding.md R70): IMM16, RSVD = 0, OP. -/
def commandWord (op : BitVec 4) (imm : BitVec 16) : Word := imm ++ 0#12 ++ op

/-- LINE's code (30_encoding.md R76). -/
def lineCode : Line → BitVec 2
  | .clk => 0#2
  | .latch => 1#2
  | .data => 2#2

/-- The function-select code of a direction (20_memory.md R60), LCFG's ARG (30_encoding.md R77). -/
def dirCode : Dir → BitVec 3
  | .input => 0#3
  | .output => 1#3

/-- The ARG of a delay class (30_encoding.md R77). -/
def classCode : DelayClass → BitVec 3
  | .tLH => 0#3
  | .tLL => 1#3
  | .tCL => 2#3
  | .tCH => 3#3

/-- The opcode of a command (30_encoding.md R71), and the contents of CUR (10_state.md R34). -/
def opCode : Op → BitVec 4
  | .nop => 0#4
  | .configure => 1#4
  | .idle => 2#4
  | .poll => 3#4
  | .decode => 4#4
  | .decodeImm => 5#4
  | .teardown => 6#4

/-- A micro-operation's byte from its fields (30_encoding.md R76): UOPC, LINE, ARG. -/
def microByte (uopc : BitVec 3) (line : BitVec 2) (arg : BitVec 3) : Byte := uopc ++ line ++ arg

/-- The encoder (30_encoding.md R71, R76, R77). -/
def encode : Instr → Code
  | .nop => .command (commandWord (opCode .nop) 0#16)
  | .configure => .command (commandWord (opCode .configure) 0#16)
  | .idle => .command (commandWord (opCode .idle) 0#16)
  | .poll => .command (commandWord (opCode .poll) 0#16)
  | .decode => .command (commandWord (opCode .decode) 0#16)
  | .decodeImm imm => .command (commandWord (opCode .decodeImm) imm)
  | .teardown => .command (commandWord (opCode .teardown) 0#16)
  | .waitTLh => .microOp (microByte 0#3 0#2 (classCode .tLH))
  | .waitTLl => .microOp (microByte 0#3 0#2 (classCode .tLL))
  | .waitTCl => .microOp (microByte 0#3 0#2 (classCode .tCL))
  | .waitTCh => .microOp (microByte 0#3 0#2 (classCode .tCH))
  | .lsetClk => .microOp (microByte 1#3 (lineCode .clk) 0#3)
  | .lsetLatch => .microOp (microByte 1#3 (lineCode .latch) 0#3)
  | .lclrClk => .microOp (microByte 2#3 (lineCode .clk) 0#3)
  | .lclrLatch => .microOp (microByte 2#3 (lineCode .latch) 0#3)
  | .smplData => .microOp (microByte 3#3 (lineCode .data) 0#3)
  | .lcfgClkOut => .microOp (microByte 4#3 (lineCode .clk) (dirCode .output))
  | .lcfgLatchOut => .microOp (microByte 4#3 (lineCode .latch) (dirCode .output))
  | .lcfgDataIn => .microOp (microByte 4#3 (lineCode .data) (dirCode .input))
  | .lacqClk => .microOp (microByte 5#3 (lineCode .clk) 0#3)
  | .lacqLatch => .microOp (microByte 5#3 (lineCode .latch) 0#3)
  | .lacqData => .microOp (microByte 5#3 (lineCode .data) 0#3)
  | .lrelClk => .microOp (microByte 6#3 (lineCode .clk) 0#3)
  | .lrelLatch => .microOp (microByte 6#3 (lineCode .latch) 0#3)
  | .lrelData => .microOp (microByte 6#3 (lineCode .data) 0#3)
  | .emit => .microOp (microByte 7#3 0#2 0#3)

/-- The word of a command; a micro-operation has none (30_encoding.md R76). -/
def encodeWord (i : Instr) : Word :=
  match encode i with
  | .command w => w
  | .microOp _ => 0#32

/-- A row's bits as the hardware stores them: a row of one byte is a micro-operation, any other a command word,
whose bits above the row's are 0. -/
def tableCode (nbits w : Nat) : Code :=
  if nbits ≤ 8 then .microOp (BitVec.ofNat 8 w) else .command (BitVec.ofNat 32 w)

/-- The instruction the decoder reads from a row's bits. -/
def decodeTableWord (nbits w : Nat) : Option Instr :=
  match decode (tableCode nbits w) with
  | .ok i => some i
  | .error _ => none

end Sys2Proof
end

