-- ==== Sys2Proof/Machine/Bits.lean ====
section
/-! DEFINITION. The bit-field and byte-order helpers. -/

namespace Sys2Proof.Machine

/-- v with bit i written (00_scope.md R11). A bit past the width is not there to write. -/
def setBit {n : Nat} (v : BitVec n) (i : Nat) (b : Bool) : BitVec n :=
  if b then v ||| BitVec.twoPow n i else v &&& ~~~(BitVec.twoPow n i)

/-- v with its 3-bit field at bit `pos` replaced, every other bit kept (40_line_ops.md R92). -/
def setField3 (v : Word) (pos : Nat) (f : BitVec 3) : Word :=
  (v &&& ~~~(0x7#32 <<< pos)) ||| (f.zeroExtend 32 <<< pos)

/-- Byte lane j of a word, bits [8j+7:8j] (20_memory.md R53; log 5). -/
def lane (v : Word) (j : Nat) : Byte := v.extractLsb' (8 * j) 8

/-- The word of four byte lanes, lane 0 the least significant (20_memory.md R53; log 5). -/
def ofLanes (b0 b1 b2 b3 : Byte) : Word := b3 ++ b2 ++ b1 ++ b0

/-- A 1-bit value as bits (00_scope.md R12). -/
def bit (b : Bool) : BitVec 1 := BitVec.ofBool b

/-- The quotient a/b rounded up, used for ceil(d × F_TICK) (40_line_ops.md R96). -/
def ceilDiv (a b : Nat) : Nat := if a % b = 0 then a / b else a / b + 1

end Sys2Proof.Machine
end

