-- ==== Sys2Proof/Machine/Platform.lean ====
section
/-! DEFINITION. The default register layout of 20_memory.md R59 and the spec's example parameter instance P1
(95_test_vectors.md), which stands in the state after reset (log 1). -/

namespace Sys2Proof.Machine

/-- The defaults of 20_memory.md R59 for pin p, those of the BCM2835 family. PRESUMED there (log 1). -/
def bcm2835Pin (p : Nat) : PinMap where
  offFsel := 4 * (p / 10)
  fpos    := 3 * (p % 10)
  offSet  := 0x1C + 4 * (p / 32)
  offClr  := 0x28 + 4 * (p / 32)
  offLev  := 0x34 + 4 * (p / 32)
  sbit    := p % 32

/-- The parameter instance P1 of 95_test_vectors.md: pins 17, 27 and 22, the default layout, F_TICK = 1 MHz. The
two bases and the two bounds are DESIGN CHOICE (log 1); T_BUS_MAX is at its bound of 1 µs (00_scope.md R9). -/
def exampleParams : Params where
  blockBase := 0x40000000
  gpioBase  := 0x20200000
  pinClk    := 17
  pinLatch  := 27
  pinData   := 22
  fTick     := 1000000
  tCmdMaxNs := 1000000
  tBusMaxNs := 1000
  pins      := (List.range 54).map bcm2835Pin

end Sys2Proof.Machine
end

