-- ==== Sys2Proof/Machine/State.lean ====
section
/-! DEFINITION. The state: SRCP's own registers, exactly those of 10_state.md R20; the external state of 10_state.md
R42 and R43 that a model must carry; the parameters; and the model's own fields that hold the environment's
inputs and what was sent to it. Plain data, every field at its reset value in `State.reset`. -/

namespace Sys2Proof.Machine

/-- Why the machine stops. No run from reset reaches either. -/
inductive Fault where
  /-- Raised by SEQ's turn where BUSY = 1 and CUR's microprogram has no micro-operation at UPC. 10_state.md R35 says this
  never happens, so a stop is safe. -/
  | microprogramOverrun
  deriving DecidableEq, Repr

/-- Why an instruction has no meaning. -/
inductive Refusal where
  /-- Answered by an arm of `exec` whose instruction is not modelled yet. Safe. -/
  | notModelled (mnemonic : String)
  /-- Answered by SEQ's turn where the microprogram holds a reserved byte (40_line_ops.md R98, 93 V6: refuse). No
  fixed microprogram holds one, so the refusal is safe. -/
  | reservedMicroOp (byte : BitVec 8)
  deriving DecidableEq, Repr

/-- The lifecycle states (10_state.md R25). Codes 5, 6 and 7 are never produced and have no term (log 21). -/
inductive LState where
  | unconfigured
  | configured
  | ready
  | tornDown
  | failed
  deriving DecidableEq, Repr

/-- The errors SRCP records (60_exceptions.md R150). -/
inductive ErrCode where
  | resource
  | alloc
  | illegal
  | busy
  | state
  deriving DecidableEq, Repr

/-- SRCP's own state, the tuple of 10_state.md R20. -/
structure Srcp where
  /-- LSTATE (10_state.md R32). -/
  lstate      : LState
  /-- BUSY (10_state.md R33). -/
  busy        : Bool
  /-- CUR, the opcode of the command in progress (10_state.md R34; log 21). -/
  cur         : Op
  /-- UPC, the micro-program counter (10_state.md R35). -/
  upc         : BitVec 7
  /-- SHIFT, the sample accumulator (10_state.md R37). -/
  shift       : Half
  /-- EVT_SRC, the value a decode translates (10_state.md R38). -/
  evtSrc      : Half
  /-- DCNT, the delay counter (10_state.md R39). -/
  dcnt        : Nat
  /-- RAW, the last completed Raw Sample (10_state.md R26). -/
  raw         : Half
  /-- RAW_VALID (10_state.md R24). -/
  rawValid    : Bool
  /-- ERR_RESOURCE, STATUS[8] (10_state.md R24). -/
  errResource : Bool
  /-- ERR_ALLOC, STATUS[9] (10_state.md R24). -/
  errAlloc    : Bool
  /-- ERR_ILLEGAL, STATUS[10] (10_state.md R24). -/
  errIllegal  : Bool
  /-- ERR_BUSY, STATUS[11] (10_state.md R24). -/
  errBusy     : Bool
  /-- ERR_STATE, STATUS[12] (10_state.md R24). -/
  errState    : Bool
  /-- ERRCMD, the command word of the latest error (10_state.md R30). -/
  errcmd      : Word
  /-- OWNED[CLK] (10_state.md R40). -/
  ownedClk    : Bool
  /-- OWNED[LATCH] (10_state.md R40). -/
  ownedLatch  : Bool
  /-- OWNED[DATA] (10_state.md R40). -/
  ownedData   : Bool
  deriving DecidableEq, Repr

/-- The bytes of the GPIO registers that are storage: a list of (bus address, byte). -/
abbrev Memory := List Host.Cell

/-- The GPIO register file (10_state.md R42). `fsel` holds the function-select registers, `out` the output latch
of each pin by its number; both list only what was written since power-up (log 4). -/
structure Gpio where
  fsel : Memory
  out  : List (Nat × Bool)
  deriving DecidableEq, Repr

/-- The reference controller (42_poll.md R121; 10_state.md R43): the buttons held, the internal shift register, the
shift position, and whether it is attached to the data line (log 20). -/
structure Controller where
  btn      : Half
  creg     : Half
  k        : Nat
  attached : Bool
  deriving DecidableEq, Repr

/-- The environment's answers to the draws of 00_scope.md R7, next first, and how many draws were made. A draw
whose list is empty is answered by an opaque constant of Config (log 3). -/
structure Env where
  grants  : List Bool
  sinkOks : List Bool
  levels  : List Bool
  waits   : List Nat
  readys  : List Bool
  asked   : Nat
  deriving DecidableEq, Repr

/-- One HOST access on the host bus (20_memory.md R50, R51): its bus address, its width in bytes and, for a write,
the data. -/
structure HostAccess where
  write : Bool
  bytes : Nat
  addr  : Nat
  data  : Word
  deriving DecidableEq, Repr

/-- What the outside does between two steps, or whose turn it is (00_scope.md R6; log 15). -/
inductive Input where
  /-- SEQ takes its turn. -/
  | seq
  /-- HOST makes an access. -/
  | access (a : HostAccess)
  /-- HOST reads STATUS until BUSY = 0 (30_encoding.md R83 WAITIDLE; log 22). -/
  | waitIdle
  /-- RESET is asserted (70_reset_and_hazards.md R180). -/
  | resetAssert
  /-- RESET is released (70_reset_and_hazards.md R180). -/
  | resetRelease
  /-- The reference controller's buttons become `btn` (42_poll.md R121). -/
  | buttons (btn : BitVec 16)
  /-- Another agent on the GPIO bus writes v at bus address a (60_exceptions.md R165, 70_reset_and_hazards.md R191;
  log 14). -/
  | otherMaster (a : Nat) (v : Word)
  deriving DecidableEq, Repr

/-- What a HOST access was answered. -/
inductive Response where
  /-- A read's data (20_memory.md R52). -/
  | data (v : Word)
  /-- A write was taken. -/
  | ack
  /-- An error response (60_exceptions.md R159; log 18). -/
  | busError
  /-- The address is outside the window, so SRCP does not answer (20_memory.md R50; log 17). -/
  | notSelected
  deriving DecidableEq, Repr

/-- The whole state. `params` never changes. `resetLine` is the level of the RESET input. `inputs` is what the
outside does next; `responses` and `delivered` are what HOST and SINK have received, latest first; `waited` is the
ticks spent in WAITs. The last four are the model's own (log 15, log 19). -/
structure State where
  srcp      : Srcp
  params    : Params
  gpio      : Gpio
  ctrl      : Controller
  env       : Env
  resetLine : Bool
  inputs    : List Input
  responses : List Response
  delivered : List Half
  waited    : Nat
  deriving DecidableEq, Repr

/-- SRCP's state after a hardware reset (10_state.md R46). -/
def Srcp.reset : Srcp where
  lstate      := .unconfigured
  busy        := false
  cur         := .nop
  upc         := 0#7
  shift       := 0x0000#16
  evtSrc      := 0x0000#16
  dcnt        := 0
  raw         := 0x0000#16
  rawValid    := false
  errResource := false
  errAlloc    := false
  errIllegal  := false
  errBusy     := false
  errState    := false
  errcmd      := 0x00000000#32
  ownedClk    := false
  ownedLatch  := false
  ownedData   := false

/-- The machine right after the power-up reset (70_reset_and_hazards.md R180): SRCP as 10_state.md R46 says, the
GPIO register file with nothing written, so that every FSEL and OUT is unknown (R44), and nothing pending from
the outside. The parameters are the example instance P1 (log 1). -/
def State.reset : State where
  srcp      := Srcp.reset
  params    := exampleParams
  gpio      := { fsel := [], out := [] }
  ctrl      := { btn := 0x0000#16, creg := 0x0000#16, k := 0, attached := false }
  env       := { grants := [], sinkOks := [], levels := [], waits := [], readys := [], asked := 0 }
  resetLine := false
  inputs    := []
  responses := []
  delivered := []
  waited    := 0

end Sys2Proof.Machine
end

