-- ==== Sys2Proof/Machine/Events.lean ====
section
/-! DEFINITION. The decoder of Raw Samples: the Button Mapping Table, the sequence of eleven events and their words
(43_decode.md R130 to R135, 30_encoding.md R79 to R81), and the event port's outputs (43_decode.md R136). -/

namespace Sys2Proof.Machine

/-- The eight keys (43_decode.md R130). -/
inductive Key where
  | x
  | a
  | select
  | start
  | y
  | b
  | l
  | r
  deriving DecidableEq, Repr

/-- The two directional axes (43_decode.md R131). -/
inductive Axis where
  | axisY
  | axisX
  deriving DecidableEq, Repr

/-- The value of an axis (43_decode.md R132). -/
inductive AxisValue where
  | negative
  | zero
  | positive
  deriving DecidableEq, Repr

/-- An event, or the sync marker (30_encoding.md R79). -/
inductive Event where
  | key (k : Key) (pressed : Bool)
  | axis (x : Axis) (v : AxisValue)
  | sync
  deriving DecidableEq, Repr

/-- The Raw Sample bit of a key, also its event ID (43_decode.md R130, 30_encoding.md R80). -/
def keyIndex : Key → Nat
  | .x => 0
  | .a => 1
  | .select => 2
  | .start => 3
  | .y => 8
  | .b => 9
  | .l => 10
  | .r => 11

/-- The negative bit of an axis, also its event ID (43_decode.md R131). -/
def negativeBit : Axis → Nat
  | .axisY => 4
  | .axisX => 6

/-- The positive bit of an axis (43_decode.md R131). -/
def positiveBit : Axis → Nat
  | .axisY => 5
  | .axisX => 7

/-- ax(rn, rp): negative wins (43_decode.md R132). -/
def axisValue (neg pos : Bool) : AxisValue :=
  if neg then .negative else if pos then .positive else .zero

/-- enc, 2-bit two's complement (43_decode.md R132). -/
def encAxis : AxisValue → BitVec 2
  | .negative => 0b11#2
  | .zero => 0b00#2
  | .positive => 0b01#2

/-- The event of a key in the Raw Sample r. -/
def keyEvent (r : Half) (k : Key) : Event := .key k (r.getLsbD (keyIndex k))

/-- The event of an axis in the Raw Sample r. -/
def axisEvent (r : Half) (x : Axis) : Event :=
  .axis x (axisValue (r.getLsbD (negativeBit x)) (r.getLsbD (positiveBit x)))

/-- decode(r), the eleven events in order (43_decode.md R133). -/
def decodeEvents (r : Half) : List Event :=
  [keyEvent r .x, keyEvent r .a, keyEvent r .select, keyEvent r .start,
   axisEvent r .axisY, axisEvent r .axisX,
   keyEvent r .y, keyEvent r .b, keyEvent r .l, keyEvent r .r,
   .sync]

/-- An event's word: TAG, 00, ID, 000000, VAL (30_encoding.md R79, R80). -/
def eventWord : Event → Half
  | .key k pressed => 0b00#2 ++ 0#2 ++ BitVec.ofNat 4 (keyIndex k) ++ 0#6 ++ 0#1 ++ bit pressed
  | .axis x v => 0b01#2 ++ 0#2 ++ BitVec.ofNat 4 (negativeBit x) ++ 0#6 ++ encAxis v
  | .sync => 0b10#2 ++ 0#2 ++ 0#4 ++ 0#6 ++ 0#2

/-- evword(r, k) for k in 0 to 10 (43_decode.md R134). No rule asks for another k; there it is 0 (log 24). -/
def evword (r : Half) (k : Nat) : Half :=
  match (decodeEvents r)[k]? with
  | some e => eventWord e
  | none => 0x0000#16

/-- EVT_VALID (43_decode.md R136). -/
def evtValid (r : Srcp) : Bool := r.busy && (r.cur == .decode || r.cur == .decodeImm)

/-- EVT_DATA (43_decode.md R136). -/
def evtData (r : Srcp) : Half := if evtValid r then evword r.evtSrc r.upc.toNat else 0x0000#16

end Sys2Proof.Machine
end

