-- ==== Sys2Proof/Machine/Flags.lean ====
section
/-! DEFINITION. The flags: the fields of STATUS (10_state.md R24, R25, R45), the error bits and how HOST clears them
(10_state.md R24, 60_exceptions.md R156), and which command is legal where (60_exceptions.md R152). -/

namespace Sys2Proof.Machine

/-- LSTATE's code (10_state.md R25). -/
def lstateCode : LState → BitVec 3
  | .unconfigured => 0#3
  | .configured => 1#3
  | .ready => 2#3
  | .tornDown => 3#3
  | .failed => 4#3

/-- The STATUS word (10_state.md R24, 20_memory.md R52). -/
def statusWord (r : Srcp) : Word :=
  0#19 ++ bit r.errState ++ bit r.errBusy ++ bit r.errIllegal ++ bit r.errAlloc ++ bit r.errResource
    ++ 0#3 ++ bit r.rawValid ++ lstateCode r.lstate ++ bit r.busy

/-- The code of an error: its bit of STATUS (60_exceptions.md R150). -/
def errBit : ErrCode → Nat
  | .resource => 8
  | .alloc => 9
  | .illegal => 10
  | .busy => 11
  | .state => 12

/-- STATUS[code(e)] <- 1 (60_exceptions.md R153). -/
def setErr (e : ErrCode) (r : Srcp) : Srcp :=
  match e with
  | .resource => { r with errResource := true }
  | .alloc => { r with errAlloc := true }
  | .illegal => { r with errIllegal := true }
  | .busy => { r with errBusy := true }
  | .state => { r with errState := true }

/-- A HOST write of v to STATUS clears each error bit k with v[k] = 1 (10_state.md R24). -/
def clearErrs (v : Word) (r : Srcp) : Srcp :=
  { r with
    errResource := r.errResource && !v.getLsbD 8
    errAlloc := r.errAlloc && !v.getLsbD 9
    errIllegal := r.errIllegal && !v.getLsbD 10
    errBusy := r.errBusy && !v.getLsbD 11
    errState := r.errState && !v.getLsbD 12 }

/-- LSTATE is CONFIGURED or READY: the states in which SRCP owns the lines (41_pin_config.md R104). -/
def linesHeld : LState → Bool
  | .configured => true
  | .ready => true
  | _ => false

/-- legal(op, LSTATE, RAW_VALID), the table of 60_exceptions.md R152. -/
def legal (op : Op) (l : LState) (rawValid : Bool) : Bool :=
  match op with
  | .nop => true
  | .configure => l != .failed
  | .idle => linesHeld l
  | .poll => l == .ready
  | .decode => linesHeld l && rawValid
  | .decodeImm => linesHeld l
  | .teardown => true

end Sys2Proof.Machine
end

