-- ==== Sys2Proof/Machine/Operands.lean ====
section
/-! DEFINITION. The operand forms: a line, its OWNED bit (10_state.md R40) and the GPIO register positions of its pin
(10_state.md R41, 20_memory.md R59), the sample index IDX (10_state.md R36), the delay classes (40_line_ops.md R96),
and the sampled bit's polarity (00_scope.md R14). -/

namespace Sys2Proof.Machine

/-- Pin p's positions. A number that is no pin has the default ones; no rule asks for them. -/
def pinMap (ps : Params) (p : Nat) : PinMap := (ps.pins[p]?).getD (bcm2835Pin p)

/-- The pin of a line (10_state.md R41). -/
def linePin (ps : Params) : Line → Nat
  | .clk => ps.pinClk
  | .latch => ps.pinLatch
  | .data => ps.pinData

/-- OWNED[L]. -/
def owned (r : Srcp) : Line → Bool
  | .clk => r.ownedClk
  | .latch => r.ownedLatch
  | .data => r.ownedData

/-- OWNED[L] <- b. -/
def setOwned (l : Line) (b : Bool) (r : Srcp) : Srcp :=
  match l with
  | .clk => { r with ownedClk := b }
  | .latch => { r with ownedLatch := b }
  | .data => { r with ownedData := b }

/-- The place of a line in the order CLK, LATCH, DATA, which is also the UPC of its LACQ (41_pin_config.md R101). -/
def lineIndex : Line → Nat
  | .clk => 0
  | .latch => 1
  | .data => 2

/-- The lines SRCP owns, in the order CLK, LATCH, DATA. -/
def ownedLines (r : Srcp) : List Line := [Line.clk, .latch, .data].filter fun l => owned r l

/-- The bus address of the function-select register of pin p (20_memory.md R59). -/
def fselAddr (ps : Params) (p : Nat) : Nat := ps.gpioBase + (pinMap ps p).offFsel
/-- The bus address of the set register of pin p (20_memory.md R59). -/
def setAddr (ps : Params) (p : Nat) : Nat := ps.gpioBase + (pinMap ps p).offSet
/-- The bus address of the clear register of pin p (20_memory.md R59). -/
def clrAddr (ps : Params) (p : Nat) : Nat := ps.gpioBase + (pinMap ps p).offClr
/-- The bus address of the level register of pin p (20_memory.md R59). -/
def levAddr (ps : Params) (p : Nat) : Nat := ps.gpioBase + (pinMap ps p).offLev

/-- The word with only the pin's bit set, 1 << SBIT(p) (40_line_ops.md R93, R94). -/
def pinBit (ps : Params) (p : Nat) : Word := 1#32 <<< (pinMap ps p).sbit

/-- IDX, the cycle index of a POLL: (UPC - 4) div 5 (10_state.md R36; outside UPC 4 to 83, log 24). -/
def idx (upc : BitVec 7) : Nat := (upc.toNat - 4) / 5

/-- The Raw Sample bit of a level: the data line is active-low (00_scope.md R14, 40_line_ops.md R95). -/
def sampledBit (level : Bool) : Bool := !level

/-- The range of a delay class, in microseconds, both ends included (40_line_ops.md R96). -/
def classRange : DelayClass → Nat × Nat
  | .tLH => (12, 18)
  | .tLL => (6, 12)
  | .tCL => (6, 12)
  | .tCH => (6, 12)

/-- ceil(d × F_TICK) for d in microseconds (40_line_ops.md R96). -/
def ticksOf (ps : Params) (us : Nat) : Nat := ceilDiv (us * ps.fTick) 1000000

/-- The ticks of a wait of class c whose draw is n: n held to the ticks of the class's range (log 12). -/
def waitTicks (ps : Params) (c : DelayClass) (n : Nat) : Nat :=
  max (ticksOf ps (classRange c).1) (min (ticksOf ps (classRange c).2) n)

end Sys2Proof.Machine
end

