-- ==== Sys2Proof/Machine/Rom.lean ====
section
/-! DEFINITION. The microprograms: fixed lists of micro-operation bytes (20_memory.md R67), UPC 0 first. -/

namespace Sys2Proof.Machine

/-- CONFIGURE's microprogram (41_pin_config.md R101). -/
def configureRom : List Byte := [0xA0#8, 0xA8#8, 0xB0#8, 0x81#8, 0x89#8, 0x90#8]

/-- IDLE's microprogram (41_pin_config.md R102). -/
def idleRom : List Byte := [0x20#8, 0x48#8]

/-- TEARDOWN's microprogram in CONFIGURED or READY (41_pin_config.md R103). -/
def teardownRom : List Byte := [0x40#8, 0x48#8, 0xC0#8, 0xC8#8, 0xD0#8]

/-- The latch pulse and settle of POLL, UPC 0 to 3 (42_poll.md R112, R113). -/
def pollHead : List Byte := [0x28#8, 0x00#8, 0x48#8, 0x01#8]

/-- One sample cycle of POLL, UPC 4 + 5i to 8 + 5i (42_poll.md R114 to R116). -/
def pollCycle : List Byte := [0x70#8, 0x40#8, 0x02#8, 0x20#8, 0x03#8]

/-- POLL's microprogram: 84 micro-operations (42_poll.md R111). -/
def pollRom : List Byte := pollHead ++ (List.replicate 16 pollCycle).flatten

/-- The microprogram of DECODE and DECODE_IMM: eleven EMITs (43_decode.md R137, R138). -/
def decodeRom : List Byte := List.replicate 11 0xE0#8

/-- The microprogram of a command (20_memory.md R67). -/
def microprogram : Op → List Byte
  | .nop => []
  | .configure => configureRom
  | .idle => idleRom
  | .poll => pollRom
  | .decode => decodeRom
  | .decodeImm => decodeRom
  | .teardown => teardownRom

/-- The byte of LREL L (30_encoding.md R77). -/
def lrelByte : Line → Byte
  | .clk => 0xC0#8
  | .latch => 0xC8#8
  | .data => 0xD0#8

/-- The first place, among the microprograms, where a micro-operation byte stands: the command and its UPC. -/
def romPlace (b : Byte) : Option (Op × Nat) :=
  [Op.configure, .idle, .poll, .decode, .teardown].findSome? fun op =>
    (microprogram op).findIdx? (fun x => x == b) |>.map fun n => (op, n)

end Sys2Proof.Machine
end

