-- ==== Sys2Proof/Machine/Ops.lean ====
section
/-! DEFINITION. The shared operations: cells in canonical form, the GPIO register file as SEQ reaches it
(20_memory.md R56 to R62), the draws (00_scope.md R7), the reference controller (42_poll.md R121), recording an error
and clearing one (60_exceptions.md R153, R156), and SEQ's move to the next micro-operation (10_state.md R35). -/

namespace Sys2Proof.Machine

/-! ### Cells in canonical form -/

/-- The value listed at key k, if one is. -/
def cellGet {β : Type} (k : Nat) : List (Nat × β) → Option β
  | [] => none
  | (a, v) :: rest => if a = k then some v else cellGet k rest

/-- The list with v at key k, its keys still strictly rising. -/
def cellPut {β : Type} (k : Nat) (v : β) : List (Nat × β) → List (Nat × β)
  | [] => [(k, v)]
  | (a, x) :: rest =>
    if k < a then (k, v) :: (a, x) :: rest
    else if k = a then (k, v) :: rest
    else (a, x) :: cellPut k v rest

/-- The canonical form: keys strictly rising. An unlisted key has no value of its own (log 4), so no entry can
equal it. -/
def cellsRising {β : Type} : List (Nat × β) → Bool
  | [] => true
  | [_] => true
  | (a, _) :: (b, y) :: rest => decide (a < b) && cellsRising ((b, y) :: rest)

/-- Memory's canonical form. -/
abbrev Memory.wf (m : Memory) : Bool := cellsRising m

/-- Both parts of the GPIO register file are in canonical form. -/
abbrev Gpio.wf (g : Gpio) : Bool := cellsRising g.fsel && cellsRising g.out

/-! ### The function-select registers as byte memory -/

/-- One byte of a function-select register. One that nothing has written is the power-up value, which is free
(10_state.md R44; log 4). -/
def readByte (m : Memory) (a : Nat) : Byte := (cellGet a m).getD (Config.powerUpByte a)

/-- The 32-bit word at bus address a (20_memory.md R56). -/
def readWord (m : Memory) (a : Nat) : Word :=
  ofLanes (readByte m a) (readByte m (a + 1)) (readByte m (a + 2)) (readByte m (a + 3))

/-- The memory with the 32-bit word v at bus address a (20_memory.md R56). -/
def writeWord (m : Memory) (a : Nat) (v : Word) : Memory :=
  cellPut (a + 3) (lane v 3) (cellPut (a + 2) (lane v 2) (cellPut (a + 1) (lane v 1) (cellPut a (lane v 0) m)))

/-! ### The pins -/

/-- FSEL(p), the function-select field of pin p (10_state.md R42, 20_memory.md R60). -/
def pinFsel (ps : Params) (g : Gpio) (p : Nat) : BitVec 3 :=
  (readWord g.fsel (fselAddr ps p)).extractLsb' (pinMap ps p).fpos 3

/-- OUT(p), the output latch of pin p (10_state.md R42). One that nothing has written is free (R44; log 4). -/
def pinOut (g : Gpio) (p : Nat) : Bool := (cellGet p g.out).getD (Config.powerUpOut p)

/-- Pin p is an output: FSEL(p) = 001 (20_memory.md R60). -/
def pinIsOutput (ps : Params) (g : Gpio) (p : Nat) : Bool := pinFsel ps g p == dirCode .output

/-- LEV(p) of a pin that is not the data pin (10_state.md R42): the latch of an output pin, else what drives the pin from
outside. -/
def pinLevel (ps : Params) (g : Gpio) (external : Bool) (p : Nat) : Bool :=
  if pinIsOutput ps g p then pinOut g p else external

/-- The pins whose bit is set in a write of v to the register at bus address a, where `addr` gives each pin's
register of that kind (20_memory.md R61). -/
def pinsWritten (ps : Params) (addr : Params → Nat → Nat) (a : Nat) (v : Word) : List Nat :=
  (List.range ps.pins.length).filter fun q => addr ps q == a && v.getLsbD (pinMap ps q).sbit

/-- The latches with those of the pins `qs` driven to b. -/
def driveOut (qs : List Nat) (b : Bool) (out : List (Nat × Bool)) : List (Nat × Bool) :=
  qs.foldl (fun o q => cellPut q b o) out

/-- Bus address a is a register of the kind `addr` of some pin (20_memory.md R59). -/
def isRegister (ps : Params) (addr : Params → Nat → Nat) (a : Nat) : Bool :=
  (List.range ps.pins.length).any fun q => addr ps q == a

/-- What a write of v at bus address a does to the GPIO register file: it stores a function-select register, sets or
clears the latches whose bit is set, and elsewhere does nothing (20_memory.md R60, R61; log 7). It never fails
(R57). -/
def gpioWrite (ps : Params) (g : Gpio) (a : Nat) (v : Word) : Gpio :=
  if isRegister ps fselAddr a then { g with fsel := writeWord g.fsel a v }
  else if isRegister ps setAddr a then { g with out := driveOut (pinsWritten ps setAddr a v) true g.out }
  else if isRegister ps clrAddr a then { g with out := driveOut (pinsWritten ps clrAddr a v) false g.out }
  else g

/-- The pin whose level the register at bus address a reports in bit i, if there is one (20_memory.md R62). -/
def levelPin (ps : Params) (a i : Nat) : Option Nat :=
  (List.range ps.pins.length).find? fun q => levAddr ps q == a && (pinMap ps q).sbit == i

/-- Bit i of the level register at bus address a (20_memory.md R62): the level of the pin whose bit it is. `dataLevel`
is the data pin's, whatever its direction (40_line_ops.md R95; log 23); `freeBit` drives every other input pin, and is a
bit that is no pin's (log 6). -/
def levelBit (ps : Params) (g : Gpio) (dataLevel freeBit : Bool) (a i : Nat) : Bool :=
  match levelPin ps a i with
  | some q => if q = ps.pinData then dataLevel else pinLevel ps g freeBit q
  | none => freeBit

/-- The level word at bus address a (20_memory.md R62): each pin's level in its own bit. -/
def levelWord (ps : Params) (g : Gpio) (dataLevel : Bool) (free : Word) (a : Nat) : Word :=
  BitVec.ofFnLE fun i : Fin 32 => levelBit ps g dataLevel (free.getLsbD i) a i

/-! ### The draws (00_scope.md R7; log 3) -/

/-- The next `Grant` (40_line_ops.md R90). -/
def nextGrant (e : Env) : Bool := e.grants.head?.getD (Config.freeGrant e.asked)
/-- The next `SinkOk` (41_pin_config.md R101). -/
def nextSinkOk (e : Env) : Bool := e.sinkOks.head?.getD (Config.freeSinkOk e.asked)
/-- The next drawn data level (40_line_ops.md R95). -/
def nextLevel (e : Env) : Bool := e.levels.head?.getD (Config.freeLevel e.asked)
/-- The next wait's ticks, before they are held to the class's range (40_line_ops.md R96). -/
def nextWait (e : Env) : Nat := e.waits.head?.getD (Config.freeWait e.asked)
/-- EVT_READY at the next tick of an EMIT (43_decode.md R136). -/
def nextReady (e : Env) : Bool := e.readys.head?.getD (Config.freeReady e.asked)

/-- After a `Grant` was drawn. -/
def tookGrant (e : Env) : Env := { e with grants := e.grants.tail, asked := e.asked + 1 }
/-- After a `SinkOk` was drawn. -/
def tookSinkOk (e : Env) : Env := { e with sinkOks := e.sinkOks.tail, asked := e.asked + 1 }
/-- After a data level was drawn. -/
def tookLevel (e : Env) : Env := { e with levels := e.levels.tail, asked := e.asked + 1 }
/-- After a wait's duration was drawn. -/
def tookWait (e : Env) : Env := { e with waits := e.waits.tail, asked := e.asked + 1 }
/-- After EVT_READY was drawn. -/
def tookReady (e : Env) : Env := { e with readys := e.readys.tail, asked := e.asked + 1 }

/-! ### The reference controller (42_poll.md R121; log 20) -/

/-- The level of a line as the controller sees it: the latch of an output pin, else free. -/
def seenLevel (ps : Params) (g : Gpio) (p : Nat) : Bool := pinLevel ps g (Config.undrivenLevel p) p

/-- CTRL's answer to a change of the lines from (clk0) to (clk1, latch1): while LATCH is high CREG follows BTN and K
is 0; at a rising edge of CLK while LATCH is low K counts up, saturating at 16 (42_poll.md R121). Where one write moves
CLK and LATCH at once, which R121 does not speak of, LATCH's level after the write is the one that counts: CLK rising as
LATCH falls counts K up (DESIGN CHOICE, log 20). -/
def ctrlSees (c : Controller) (clk0 clk1 latch1 : Bool) : Controller :=
  if latch1 then { c with creg := c.btn, k := 0 }
  else if !clk0 && clk1 then { c with k := min 16 (c.k + 1) }
  else c

/-- The reference controller sets the data line's level: it is attached, has a bit left, and no other agent has made
the data pin an output (42_poll.md R121; 93_implementation_defined.md X4; log 20, log 23). -/
def ctrlAnswers (s : State) : Bool :=
  s.ctrl.attached && decide (s.ctrl.k ≤ 15) && !pinIsOutput s.params s.gpio s.params.pinData

/-- Level(DATA): the reference controller's bit where it answers, else a draw (40_line_ops.md R95, 42_poll.md R118,
R121). -/
def dataLevel (s : State) : Bool :=
  if ctrlAnswers s then !s.ctrl.creg.getLsbD s.ctrl.k else nextLevel s.env

/-! ### The GPIO bus (20_memory.md R56, R57) -/

/-- MemRead(a, 4) on the GPIO bus: a function-select register's word, a level register's word, elsewhere a free word
(20_memory.md R60, R62; log 7). It never fails (R57). -/
def memRead (s : State) (a : Nat) : Word :=
  if isRegister s.params fselAddr a then readWord s.gpio.fsel a
  else if isRegister s.params levAddr a then
    levelWord s.params s.gpio (dataLevel s) (Config.freeBusWord s.env.asked) a
  else Config.freeBusWord s.env.asked

/-- Bit i of MemRead(a, 4), taken alone: no other bit of the word is asked for (40_line_ops.md R95, "the other 31 bits
of v are ignored"). -/
def memReadBit (s : State) (a i : Nat) : Bool :=
  if isRegister s.params fselAddr a then (readWord s.gpio.fsel a).getLsbD i
  else if isRegister s.params levAddr a then
    levelBit s.params s.gpio (dataLevel s) ((Config.freeBusWord s.env.asked).getLsbD i) a i
  else (Config.freeBusWord s.env.asked).getLsbD i

/-- MemWrite(a, 4, v) on the GPIO bus (20_memory.md R60, R61), with what CTRL sees of it. It never fails (R57). -/
def memWrite (s : State) (a : Nat) (v : Word) : State :=
  let g := gpioWrite s.params s.gpio a v
  { s with
    gpio := g
    ctrl := ctrlSees s.ctrl (seenLevel s.params s.gpio s.params.pinClk) (seenLevel s.params g s.params.pinClk)
      (seenLevel s.params g s.params.pinLatch) }

/-! ### Errors: taking one and clearing one (60_exceptions.md) -/

/-- The errors that end the command in progress (60_exceptions.md R153). -/
def endsCommand : ErrCode → Bool
  | .resource => true
  | .alloc => true
  | _ => false

/-- raise Err(e) for the command word w (60_exceptions.md R153): the sticky bit, ERRCMD, and for RESOURCE and ALLOC
the end of the command. Nothing else changes. -/
def raiseErr (e : ErrCode) (w : Word) (s : State) : State :=
  let r := setErr e { s.srcp with errcmd := w }
  { s with srcp := if endsCommand e then { r with busy := false, upc := 0#7 } else r }

/-- HOST's clearing of error bits, which takes the place of a return (60_exceptions.md R156). -/
def clearErrors (v : Word) (s : State) : State := { s with srcp := clearErrs v s.srcp }

/-! ### Accepting a command and ending one -/

/-- The check of 60_exceptions.md R151 for a well-formed word w of opcode op, then what acceptance writes, given by
`accepted`. The order of the checks is that of R154. -/
def issue (op : Op) (w : Word) (accepted : Srcp → Srcp) (s : State) : State :=
  if s.srcp.busy then raiseErr .busy w s
  else if legal op s.srcp.lstate s.srcp.rawValid then { s with srcp := accepted { s.srcp with cur := op } }
  else raiseErr .state w s

/-- BUSY <- 1 and UPC <- n, for a command whose microprogram starts at n (60_exceptions.md R151). -/
def beginAt (n : BitVec 7) (r : Srcp) : Srcp := { r with busy := true, upc := n }

/-- A word that is no command: ERR_BUSY while BUSY = 1, else ERR_ILLEGAL (60_exceptions.md R151, R154). -/
def rejectWord (w : Word) (s : State) : State := raiseErr (if s.srcp.busy then .busy else .illegal) w s

/-- What TEARDOWN writes at its end (41_pin_config.md R103). -/
def tornDown (r : Srcp) : Srcp := { r with rawValid := false, lstate := .tornDown }

/-- The completion effect of each command (41_pin_config.md R101 to R103, 42_poll.md R117, 43_decode.md R137, R138). -/
def completion (r : Srcp) : Srcp :=
  match r.cur with
  | .nop => r
  | .configure =>
    match r.lstate with
    | .unconfigured => { r with lstate := .configured }
    | .tornDown => { r with lstate := .configured }
    | _ => r
  | .idle => { r with lstate := .ready }
  | .poll => { r with raw := r.shift, rawValid := true }
  | .decode => r
  | .decodeImm => r
  | .teardown => tornDown r

/-- SEQ has completed the micro-operation at UPC: UPC <- UPC + 1, or after the last one of CUR's microprogram its
completion effect with BUSY <- 0 and UPC <- 0 (10_state.md R35; log 8). -/
def advance (r : Srcp) : Srcp :=
  if r.upc.toNat + 1 < (microprogram r.cur).length then { r with upc := r.upc + 1#7 }
  else { completion r with busy := false, upc := 0#7 }

/-- `advance` on the whole state. -/
def seqNext (s : State) : State := { s with srcp := advance s.srcp }

/-! ### What SEQ runs next -/

/-- CONFIGURE is on its acquiring path (41_pin_config.md R101). -/
def acquiring (r : Srcp) : Bool := r.cur == .configure && !linesHeld r.lstate

/-- CONFIGURE has been past the LACQ of a line that SRCP does not own: the line was denied, or it was relinquished
since (41_pin_config.md R101; log 9). -/
def lineMissing (r : Srcp) : Bool :=
  acquiring r && [Line.clk, .latch, .data].any fun l => decide (lineIndex l < r.upc.toNat) && !owned r l

/-- The sink is to be asked: CONFIGURE owns the three lines and is at UPC 3 ("draw, taken after UPC 2",
41_pin_config.md R101; log 9). -/
def sinkDue (r : Srcp) : Bool := acquiring r && r.upc == 3#7 && owned r .clk && owned r .latch && owned r .data

/-- The state once the sink was asked, where it is to be asked (41_pin_config.md R101). -/
def askSink (s : State) : State := { s with env := if sinkDue s.srcp then tookSinkOk s.env else s.env }

/-- CONFIGURE has failed, by a denied line or an absent sink, and relinquishes what SRCP owns (41_pin_config.md
R101). -/
def configureFailed (s : State) : Bool := lineMissing s.srcp || (sinkDue s.srcp && !nextSinkOk s.env)

/-- The line that the next release step of a failed CONFIGURE relinquishes: the first that is still owned
(41_pin_config.md R101; log 9). -/
def nextRelease (s : State) : Option Line := if configureFailed s then (ownedLines s.srcp).head? else none

/-- The micro-operation byte SEQ runs next: CUR's microprogram at UPC (10_state.md R35), or a release step of a failed
CONFIGURE, which no microprogram lists (41_pin_config.md R101; log 9). -/
def fetch (s : State) : Option Byte :=
  match nextRelease s with
  | some l => some (lrelByte l)
  | none => (microprogram s.srcp.cur)[s.srcp.upc.toNat]?

end Sys2Proof.Machine
end

