-- ==== Sys2Proof/Machine/DecodeCommands.lean ====
section
/-! DEFINITION. The meanings of DECODE and DECODE_IMM, their acceptance steps (43_decode.md R137, R138), and of EMIT,
the micro-operation that moves one beat (43_decode.md R136). -/

namespace Sys2Proof.Machine

/-- What accepting a decode of v writes: EVT_SRC <- v, and the start at UPC 0 (60_exceptions.md R151). -/
def beginDecode (v : Half) (r : Srcp) : Srcp := beginAt 0#7 { r with evtSrc := v }

/-- DECODE (43_decode.md R137): the value is RAW. -/
def execDecode (s : State) : Host.Outcome State Fault Refusal :=
  .next (issue .decode (encodeWord .decode) (fun r => beginDecode r.raw r) s)

/-- DECODE_IMM imm (43_decode.md R138): the value is the operand. -/
def execDecodeImm (imm : BitVec 16) (s : State) : Host.Outcome State Fault Refusal :=
  .next (issue .decodeImm (encodeWord (.decodeImm imm)) (beginDecode imm) s)

/-- The beat on offer transfers to SINK (43_decode.md R136). -/
def deliver (s : State) : State := { s with delivered := evword s.srcp.evtSrc s.srcp.upc.toNat :: s.delivered }

/-- EMIT at one tick (43_decode.md R136): EVT_READY is drawn, and the beat transfers where it is 1. Where it is 0
SEQ keeps offering it (log 13). -/
def execEmit (s : State) : Host.Outcome State Fault Refusal :=
  let s' := { s with env := tookReady s.env }
  .next (if nextReady s.env then seqNext (deliver s') else s')

end Sys2Proof.Machine
end

