-- ==== Sys2Proof/Machine/LineOps.lean ====
section
/-! DEFINITION. The meanings of the line micro-operations (40_line_ops.md R90 to R96): one shared operation for each
kind, and one definition for each instruction. -/

namespace Sys2Proof.Machine

/-! ### WAIT (40_line_ops.md R96) -/

/-- DCNT <- ceil(d × F_TICK) for a drawn d in the class's range. -/
def loadWait (c : DelayClass) (s : State) : State :=
  { s with
    srcp := { s.srcp with dcnt := waitTicks s.params c (nextWait s.env) }
    env := tookWait s.env }

/-- While DCNT > 0: at each tick DCNT <- DCNT - 1; the ticks are counted in `waited`. -/
def countDown (s : State) : State :=
  { s with srcp := { s.srcp with dcnt := 0 }, waited := s.waited + s.srcp.dcnt }

/-- WAIT c, one step that ends when DCNT reaches 0 (40_line_ops.md R97; log 12). -/
def waitFor (c : DelayClass) (s : State) : State := seqNext (countDown (loadWait c s))

/-- WAIT T_LH. -/
def execWaitTLh (s : State) : Host.Outcome State Fault Refusal := .next (waitFor .tLH s)
/-- WAIT T_LL. -/
def execWaitTLl (s : State) : Host.Outcome State Fault Refusal := .next (waitFor .tLL s)
/-- WAIT T_CL. -/
def execWaitTCl (s : State) : Host.Outcome State Fault Refusal := .next (waitFor .tCL s)
/-- WAIT T_CH. -/
def execWaitTCh (s : State) : Host.Outcome State Fault Refusal := .next (waitFor .tCH s)

/-! ### LSET and LCLR (40_line_ops.md R93, R94) -/

/-- LSET L: MemWrite(GPIO_BASE + OFF_SET(PIN_L), 4, 1 << SBIT(PIN_L)). -/
def setLine (l : Line) (s : State) : State :=
  let p := linePin s.params l
  seqNext (memWrite s (setAddr s.params p) (pinBit s.params p))

/-- LCLR L: MemWrite(GPIO_BASE + OFF_CLR(PIN_L), 4, 1 << SBIT(PIN_L)). -/
def clearLine (l : Line) (s : State) : State :=
  let p := linePin s.params l
  seqNext (memWrite s (clrAddr s.params p) (pinBit s.params p))

/-- LSET CLK. -/
def execLsetClk (s : State) : Host.Outcome State Fault Refusal := .next (setLine .clk s)
/-- LSET LATCH. -/
def execLsetLatch (s : State) : Host.Outcome State Fault Refusal := .next (setLine .latch s)
/-- LCLR CLK. -/
def execLclrClk (s : State) : Host.Outcome State Fault Refusal := .next (clearLine .clk s)
/-- LCLR LATCH. -/
def execLclrLatch (s : State) : Host.Outcome State Fault Refusal := .next (clearLine .latch s)

/-! ### SMPL (40_line_ops.md R95) -/

/-- The level SMPL reads: bit SBIT(PIN_DATA) of MemRead(GPIO_BASE + OFF_LEV(PIN_DATA), 4). -/
def sampledLevel (s : State) : Bool :=
  memReadBit s (levAddr s.params s.params.pinData) (pinMap s.params s.params.pinData).sbit

/-- SMPL DATA: SHIFT[IDX] <- ~level. -/
def sampleData (s : State) : State :=
  let r := s.srcp
  seqNext { s with
    srcp := { r with shift := setBit r.shift (idx r.upc) (sampledBit (sampledLevel s)) }
    env := tookLevel s.env }

/-- SMPL DATA. -/
def execSmplData (s : State) : Host.Outcome State Fault Refusal := .next (sampleData s)

/-! ### LCFG (40_line_ops.md R92) -/

/-- LCFG L, D: the read-modify-write of the function-select register of the line's pin (log 14). -/
def configureLine (l : Line) (d : Dir) (s : State) : State :=
  let p := linePin s.params l
  let a := fselAddr s.params p
  let w := memRead s a
  seqNext (memWrite s a (setField3 w (pinMap s.params p).fpos (dirCode d)))

/-- LCFG CLK, OUT. -/
def execLcfgClkOut (s : State) : Host.Outcome State Fault Refusal := .next (configureLine .clk .output s)
/-- LCFG LATCH, OUT. -/
def execLcfgLatchOut (s : State) : Host.Outcome State Fault Refusal := .next (configureLine .latch .output s)
/-- LCFG DATA, IN. -/
def execLcfgDataIn (s : State) : Host.Outcome State Fault Refusal := .next (configureLine .data .input s)

/-! ### LACQ and LREL (40_line_ops.md R90, R91) -/

/-- The end of a CONFIGURE that has failed (41_pin_config.md R101): LSTATE <- FAILED, and the error raised for the one
word that can be running (log 10). -/
def failConfigure (e : ErrCode) (s : State) : State :=
  raiseErr e (encodeWord .configure) { s with srcp := { s.srcp with lstate := .failed } }

/-- A denied LACQ (41_pin_config.md R101): where no line is owned CONFIGURE ends there; else UPC advances, as after
every LACQ (40_line_ops.md R97), and the release steps follow (log 9). -/
def denyLine (s : State) : State :=
  if ownedLines s.srcp = [] then failConfigure .resource s else seqNext s

/-- LACQ L: a line already owned is not requested again; else `Grant` is drawn, and a denied line stays unowned
(40_line_ops.md R90). -/
def acquireLine (l : Line) (s : State) : State :=
  if owned s.srcp l then seqNext s
  else
    let s' := { s with env := tookGrant s.env }
    if nextGrant s.env then seqNext { s' with srcp := setOwned l true s'.srcp } else denyLine s'

/-- The error a CONFIGURE in its release steps ends with: DATA, acquired last, is owned at UPC 3 exactly where every
line was granted and the sink was absent (41_pin_config.md R101; log 9). -/
def releaseError (r : Srcp) : ErrCode := if r.upc = 3#7 ∧ r.ownedData = true then .alloc else .resource

/-- What follows a release step of a CONFIGURE that ends with error e: the next release step, with UPC as it is
(10_state.md R35), or with no line left to relinquish the command's end (41_pin_config.md R101). -/
def releaseNext (e : ErrCode) (s : State) : State :=
  if ownedLines s.srcp = [] then failConfigure e s else s

/-- LREL L: OWNED[L] <- 0 (40_line_ops.md R91). CONFIGURE's microprogram holds no LREL, so while CUR = CONFIGURE it is
a release step (41_pin_config.md R101). -/
def releaseLine (l : Line) (s : State) : State :=
  let s' := { s with srcp := setOwned l false s.srcp }
  if s.srcp.cur = .configure then releaseNext (releaseError s.srcp) s' else seqNext s'

/-- LACQ CLK. -/
def execLacqClk (s : State) : Host.Outcome State Fault Refusal := .next (acquireLine .clk s)
/-- LACQ LATCH. -/
def execLacqLatch (s : State) : Host.Outcome State Fault Refusal := .next (acquireLine .latch s)
/-- LACQ DATA. -/
def execLacqData (s : State) : Host.Outcome State Fault Refusal := .next (acquireLine .data s)
/-- LREL CLK. -/
def execLrelClk (s : State) : Host.Outcome State Fault Refusal := .next (releaseLine .clk s)
/-- LREL LATCH. -/
def execLrelLatch (s : State) : Host.Outcome State Fault Refusal := .next (releaseLine .latch s)
/-- LREL DATA. -/
def execLrelData (s : State) : Host.Outcome State Fault Refusal := .next (releaseLine .data s)

end Sys2Proof.Machine
end

