-- ==== Sys2Proof/Machine/PinConfig.lean ====
section
/-! DEFINITION. The meanings of NOP, CONFIGURE, IDLE and TEARDOWN (41_pin_config.md): the acceptance step of
60_exceptions.md R151. What follows acceptance is SEQ's, one micro-operation a step, and `completion`. -/

namespace Sys2Proof.Machine

/-- NOP (41_pin_config.md R100): accepted in every LSTATE, it completes in the accepting step (log 11). -/
def execNop (s : State) : Host.Outcome State Fault Refusal :=
  .next (issue .nop (encodeWord .nop) (fun r => r) s)

/-- What accepting CONFIGURE writes: UPC 3 on the repeat path, UPC 0 on the acquiring path (41_pin_config.md R101,
60_exceptions.md R151). -/
def beginConfigure (r : Srcp) : Srcp := beginAt (if linesHeld r.lstate then 3#7 else 0#7) r

/-- CONFIGURE (41_pin_config.md R101). -/
def execConfigure (s : State) : Host.Outcome State Fault Refusal :=
  .next (issue .configure (encodeWord .configure) beginConfigure s)

/-- IDLE (41_pin_config.md R102). -/
def execIdle (s : State) : Host.Outcome State Fault Refusal :=
  .next (issue .idle (encodeWord .idle) (beginAt 0#7) s)

/-- What accepting TEARDOWN writes: where no line is held its microprogram is empty and it ends at once
(41_pin_config.md R103, 60_exceptions.md R151). -/
def beginTeardown (r : Srcp) : Srcp :=
  if linesHeld r.lstate then beginAt 0#7 r else { tornDown r with busy := false, upc := 0#7 }

/-- TEARDOWN (41_pin_config.md R103). -/
def execTeardown (s : State) : Host.Outcome State Fault Refusal :=
  .next (issue .teardown (encodeWord .teardown) beginTeardown s)

end Sys2Proof.Machine
end

