-- ==== Sys2Proof/Machine/Poll.lean ====
section
/-! DEFINITION. The meaning of POLL (42_poll.md R110): its acceptance step. The 84 micro-operations of 42_poll.md R111
are SEQ's, and 42_poll.md R117's completion is in `completion`. -/

namespace Sys2Proof.Machine

/-- What accepting POLL writes: SHIFT <- 0x0000, and the start at UPC 0 (42_poll.md R110, 60_exceptions.md R151). -/
def beginPoll (r : Srcp) : Srcp := beginAt 0#7 { r with shift := 0x0000#16 }

/-- POLL (42_poll.md R110). -/
def execPoll (s : State) : Host.Outcome State Fault Refusal :=
  .next (issue .poll (encodeWord .poll) beginPoll s)

end Sys2Proof.Machine
end

