-- ==== Sys2Proof/Machine/Dispatch.lean ====
section
/-! DEFINITION. One arm for each instruction. -/

namespace Sys2Proof.Machine

def exec (i : Instr) (s : State) : Host.Outcome State Fault Refusal :=
  match i with
  | .nop => Sys2Proof.Machine.execNop s
  | .configure => Sys2Proof.Machine.execConfigure s
  | .idle => Sys2Proof.Machine.execIdle s
  | .poll => Sys2Proof.Machine.execPoll s
  | .decode => Sys2Proof.Machine.execDecode s
  | .decodeImm imm => Sys2Proof.Machine.execDecodeImm imm s
  | .teardown => Sys2Proof.Machine.execTeardown s
  | .waitTLh => Sys2Proof.Machine.execWaitTLh s
  | .waitTLl => Sys2Proof.Machine.execWaitTLl s
  | .waitTCl => Sys2Proof.Machine.execWaitTCl s
  | .waitTCh => Sys2Proof.Machine.execWaitTCh s
  | .lsetClk => Sys2Proof.Machine.execLsetClk s
  | .lsetLatch => Sys2Proof.Machine.execLsetLatch s
  | .lclrClk => Sys2Proof.Machine.execLclrClk s
  | .lclrLatch => Sys2Proof.Machine.execLclrLatch s
  | .smplData => Sys2Proof.Machine.execSmplData s
  | .lcfgClkOut => Sys2Proof.Machine.execLcfgClkOut s
  | .lcfgLatchOut => Sys2Proof.Machine.execLcfgLatchOut s
  | .lcfgDataIn => Sys2Proof.Machine.execLcfgDataIn s
  | .lacqClk => Sys2Proof.Machine.execLacqClk s
  | .lacqLatch => Sys2Proof.Machine.execLacqLatch s
  | .lacqData => Sys2Proof.Machine.execLacqData s
  | .lrelClk => Sys2Proof.Machine.execLrelClk s
  | .lrelLatch => Sys2Proof.Machine.execLrelLatch s
  | .lrelData => Sys2Proof.Machine.execLrelData s
  | .emit => Sys2Proof.Machine.execEmit s

end Sys2Proof.Machine
end

