-- ==== Sys2Proof/Machine/HostPort.lean ====
section
/-! DEFINITION. The host register window (20_memory.md R50 to R55): the constants and registers HOST reads, the effect
of its accesses, and whose turn the next step is. -/

namespace Sys2Proof.Machine

/-- VENDOR (00_scope.md R8). -/
def vendor : BitVec 16 := 0x12E1#16
/-- PRODUCT (00_scope.md R8). -/
def product : BitVec 16 := 0x0001#16
/-- VERSION (00_scope.md R8). -/
def version : BitVec 16 := 0x0001#16
/-- BUSTYPE (00_scope.md R10, 10_state.md R28). -/
def bustype : BitVec 16 := 0x0019#16

/-- ID (10_state.md R27). -/
def idWord : Word := product ++ vendor
/-- VERSION's register (10_state.md R28). -/
def versionWord : Word := bustype ++ version
/-- CAPS (10_state.md R29): reserved, AXIS_FUZZ, AXIS_FLAT, AXIS_MAX, AXIS_MIN, NAXES, NKEYS. -/
def capsWord : Word := 0#16 ++ 0#2 ++ 0#2 ++ 0b01#2 ++ 0b11#2 ++ 2#4 ++ 8#4

/-- HostRead(off) (20_memory.md R52). -/
def hostRead (r : Srcp) (off : Nat) : Word :=
  match off with
  | 0x00 => 0x00000000#32
  | 0x04 => statusWord r
  | 0x08 => r.raw.zeroExtend 32
  | 0x0C => idWord
  | 0x10 => versionWord
  | 0x14 => capsWord
  | 0x18 => r.errcmd
  | _ => 0x00000000#32

/-- HOST gets an answer. -/
def respond (a : Response) (s : State) : State := { s with responses := a :: s.responses }

/-- The address is in the 64-byte window (20_memory.md R50). -/
def inWindow (ps : Params) (addr : Nat) : Bool := decide (ps.blockBase ≤ addr) && decide (addr < ps.blockBase + 64)

/-- The access is 32 bits wide and aligned (20_memory.md R51). -/
def accessWhole (ps : Params) (a : HostAccess) : Bool := a.bytes == 4 && (a.addr - ps.blockBase) % 4 == 0

/-- The registers HOST reads: while RESET is held, the reset values (70_reset_and_hazards.md R180). -/
def readable (s : State) : Srcp := if s.resetLine then Srcp.reset else s.srcp

/-- What a turn is: an instruction to run in a state, a state already reached, or a stop. -/
inductive Turn where
  /-- Run the instruction in the state. -/
  | run (i : Instr) (s : State)
  /-- The turn is over. -/
  | settled (s : State)
  /-- SEQ has no micro-operation to run. -/
  | overrun
  /-- SEQ met a reserved byte. -/
  | reserved (b : BitVec 8)
  deriving DecidableEq, Repr

/-- IssueCommand(w) (60_exceptions.md R151): a well-formed word is its instruction; any other is rejected. -/
def issueTurn (w : Word) (s : State) : Turn :=
  match decodeCommand w with
  | .ok i => .run i s
  | .error _ => .settled (rejectWord w s)

/-- HostWrite(off, v) (20_memory.md R52). -/
def writeTurn (off : Nat) (v : Word) (s : State) : Turn :=
  match off with
  | 0x00 => issueTurn v s
  | 0x04 => .settled (clearErrors v s)
  | _ => .settled s

/-- A HOST access: none of SRCP's outside the window (20_memory.md R50; log 17), a bus error where it is not 32 bits
wide and aligned (R51; log 18), else a read or a write. While RESET is held a write has no effect
(70_reset_and_hazards.md R180; log 16). -/
def accessTurn (a : HostAccess) (s : State) : Turn :=
  if !inWindow s.params a.addr then .settled (respond .notSelected s)
  else if !accessWhole s.params a then .settled (respond .busError s)
  else
    let off := a.addr - s.params.blockBase
    if a.write then
      if s.resetLine then .settled (respond .ack s) else writeTurn off a.data (respond .ack s)
    else .settled (respond (.data (hostRead (readable s) off)) s)

/-- SEQ's turn (40_line_ops.md R97): while BUSY = 1 it fetches and decodes its next micro-operation, having asked the
sink where CONFIGURE is to (41_pin_config.md R101), else it does nothing (70_reset_and_hazards.md R183). -/
def seqTurn (s : State) : Turn :=
  if s.resetLine || !s.srcp.busy then .settled s
  else
    match fetch s with
    | none => .overrun
    | some b =>
      match decodeMicroOp b with
      | .ok i => .run i (askSink s)
      | .error _ => .reserved b

/-- RESET is asserted (70_reset_and_hazards.md R180 to R182): SRCP's state takes its reset values, and nothing
outside it changes. -/
def assertReset (s : State) : State := { s with srcp := Srcp.reset, resetLine := true }

/-- The player's buttons change; while LATCH is high CREG follows them (42_poll.md R121). -/
def pressButtons (b : BitVec 16) (s : State) : State :=
  let c := { s.ctrl with btn := b }
  { s with ctrl := if seenLevel s.params s.gpio s.params.pinLatch then { c with creg := b, k := 0 } else c }

/-- WAITIDLE (30_encoding.md R83): while BUSY = 1 the turn is SEQ's and HOST keeps waiting; then HOST's read of STATUS
is answered (log 22). -/
def waitIdleTurn (rest : List Input) (s : State) : Turn :=
  if s.srcp.busy then seqTurn s
  else .settled (respond (.data (statusWord (readable s))) { s with inputs := rest })

/-- Whose turn it is and what it is (log 15). -/
def nextTurn (s : State) : Turn :=
  match s.inputs with
  | [] => seqTurn s
  | .seq :: rest => seqTurn { s with inputs := rest }
  | .access a :: rest => accessTurn a { s with inputs := rest }
  | .waitIdle :: rest => waitIdleTurn rest s
  | .resetAssert :: rest => .settled (assertReset { s with inputs := rest })
  | .resetRelease :: rest => .settled { s with inputs := rest, resetLine := false }
  | .buttons b :: rest => .settled (pressButtons b { s with inputs := rest })
  | .otherMaster a v :: rest => .settled (memWrite { s with inputs := rest } a v)

/-- HOST's 32-bit write of v at offset off (20_memory.md R52). -/
def hostWord (ps : Params) (off : Nat) (v : Word) : Input :=
  .access { write := true, bytes := 4, addr := ps.blockBase + off, data := v }

/-- HOST's 32-bit read at offset off (20_memory.md R52). -/
def hostFetch (ps : Params) (off : Nat) : Input :=
  .access { write := false, bytes := 4, addr := ps.blockBase + off, data := 0x00000000#32 }

/-- s with a row's bits placed where the next step fetches its instruction (log 15): a command word as HOST's write
to CMD; a micro-operation byte by the command and UPC of a microprogram that holds it, with BUSY = 1 and SEQ's turn
next. RESET is released. A reserved byte stands in no microprogram, and the state stays. -/
def placeCode (c : Code) (s : State) : State :=
  match c with
  | .command w => { s with resetLine := false, inputs := hostWord s.params 0x00 w :: s.inputs }
  | .microOp b =>
    match romPlace b with
    | some (op, n) =>
      { s with
        srcp := { s.srcp with busy := true, cur := op, upc := BitVec.ofNat 7 n }
        resetLine := false
        inputs := .seq :: s.inputs }
    | none => s

end Sys2Proof.Machine
end

