-- ==== Sys2Proof/Machine/Step.lean ====
section
/-! DEFINITION. The step, and where a program is placed for the next step to run it. -/

namespace Sys2Proof.Machine

/-- What a turn comes to: an instruction is run by `exec`. -/
def takeTurn (t : Turn) : Host.Outcome State Fault Refusal :=
  match t with
  | .run i s => exec i s
  | .settled s => .next s
  | .overrun => .fault .microprogramOverrun
  | .reserved b => .refused (.reservedMicroOp b)

/-- One step: the turn the pending inputs name (20_memory.md R55, R63; log 15). -/
def step (s : State) : Host.Outcome State Fault Refusal := takeTurn (nextTurn s)

/-- s with a row's bits placed where the next step fetches its instruction (log 15). -/
def State.withFetchWord (s : State) (nbits w : Nat) : State := placeCode (tableCode nbits w) s

end Sys2Proof.Machine
end

