-- ==== Sys2Proof/Machine/HostProgram.lean ====
section
/-! DEFINITION. HOST's actions and pseudo-instructions as inputs (30_encoding.md R82, R83). A read's value is the
response it gets. -/

namespace Sys2Proof.Machine

/-- `CMD w` (30_encoding.md R82). -/
def cmd (ps : Params) (w : Word) : List Input := [hostWord ps 0x00 w]
/-- The command word of an instruction written to CMD (30_encoding.md R82). -/
def issueCmd (ps : Params) (i : Instr) : List Input := cmd ps (encodeWord i)
/-- `WR off, v` (30_encoding.md R82). -/
def wr (ps : Params) (off : Nat) (v : Word) : List Input := [hostWord ps off v]
/-- `RD off -> name` (30_encoding.md R82). -/
def rd (ps : Params) (off : Nat) : List Input := [hostFetch ps off]
/-- `WAITIDLE` (30_encoding.md R83). -/
def waitIdle : List Input := [.waitIdle]
/-- `INIT` (30_encoding.md R83): CONFIGURE; WAITIDLE; IDLE; WAITIDLE. -/
def initProgram (ps : Params) : List Input :=
  issueCmd ps .configure ++ waitIdle ++ issueCmd ps .idle ++ waitIdle
/-- `CYCLE` (30_encoding.md R83): POLL; WAITIDLE; DECODE; WAITIDLE. -/
def cycleProgram (ps : Params) : List Input :=
  issueCmd ps .poll ++ waitIdle ++ issueCmd ps .decode ++ waitIdle
/-- `EXIT` (30_encoding.md R83): TEARDOWN; WAITIDLE. -/
def exitProgram (ps : Params) : List Input := issueCmd ps .teardown ++ waitIdle
/-- `CLRERR` (30_encoding.md R83): WR 0x04, 0x00001F00. -/
def clrerrProgram (ps : Params) : List Input := wr ps 0x04 0x00001F00#32

end Sys2Proof.Machine
end

