-- ==== Sys2Proof/Safety.lean ====
section
/-! DEFINITION. What the statements call a safe state: the invariants of SRCP's own registers, of the lines and of the
memory, and the terms in which runs are described. -/

namespace Sys2Proof.Machine

/-- The next step does not stop. -/
def stepCompletes (s : State) : Prop := ∃ t, step s = .next t

/-- No other agent writes the GPIO register file in the next step (41_pin_config.md R104 "provided no agent other than
SRCP writes those pins"; 70_reset_and_hazards.md R191). -/
def undisturbed (s : State) : Prop := ∀ a v rest, s.inputs ≠ .otherMaster a v :: rest

/-- The states in which the command in progress may be running: those 60_exceptions.md R152 accepts it in; on
CONFIGURE's repeat path UPC is at least 3 (41_pin_config.md R101). -/
def runsLegally (r : Srcp) : Prop :=
  match r.cur with
  | .nop => False
  | .configure => r.lstate ≠ .failed ∧ (linesHeld r.lstate = true → 3 ≤ r.upc.toNat)
  | .idle => linesHeld r.lstate = true
  | .poll => r.lstate = .ready
  | .decode => linesHeld r.lstate = true ∧ r.rawValid = true
  | .decodeImm => linesHeld r.lstate = true
  | .teardown => linesHeld r.lstate = true

/-- OWNED[L] as the command in progress and its UPC fix it: one by one during CONFIGURE's acquiring path (UPC 0 to 2)
and TEARDOWN's releases (UPC 2 to 4), otherwise held exactly in CONFIGURED and READY (41_pin_config.md R101, R103,
R104). -/
def ownedByPlace (r : Srcp) (l : Line) : Bool :=
  if r.busy then
    match r.cur with
    | .configure => linesHeld r.lstate || decide (lineIndex l < r.upc.toNat)
    | .teardown => decide (r.upc.toNat ≤ lineIndex l + 2)
    | _ => linesHeld r.lstate
  else linesHeld r.lstate

/-- A failed CONFIGURE is among its release steps: a line before UPC is not owned, and one is left to relinquish
(41_pin_config.md R101; log 9). -/
def releasing (r : Srcp) : Bool := r.busy && lineMissing r && !(ownedLines r).isEmpty

/-- Among the release steps of a failed CONFIGURE UPC is where the failure left it, past an LACQ, and no line is owned
whose LACQ was not reached (41_pin_config.md R101). -/
structure ReleasesFit (r : Srcp) : Prop where
  upc_at_most_three : r.upc.toNat ≤ 3
  later_lines_not_owned : ∀ l, r.upc.toNat ≤ lineIndex l → owned r l = false

/-- SRCP's registers fit together: a command in progress has its UPC in its microprogram and runs where it is legal
(10_state.md R35, 60_exceptions.md R152), OWNED is as the lifecycle says (41_pin_config.md R104), a valid sample
exists only in READY (43_decode.md R137), no wait is left between steps (40_line_ops.md R97), and the release steps of
a failed CONFIGURE fit (41_pin_config.md R101). -/
structure LifecycleInv (r : Srcp) : Prop where
  upc_inside : r.busy = true → r.upc.toNat < (microprogram r.cur).length
  runs_legally : r.busy = true → runsLegally r
  owned_as_lifecycle : releasing r = false → ∀ l, owned r l = ownedByPlace r l
  sample_only_in_ready : r.rawValid = true → r.lstate = .ready
  no_wait_left : r.dcnt = 0
  releases_fit : releasing r = true → ReleasesFit r

/-- While RESET is held, SRCP's state is its reset state (70_reset_and_hazards.md R180). -/
def ResetHeldInv (s : State) : Prop := s.resetLine = true → s.srcp = Srcp.reset

/-- The two parts of the GPIO register file are in canonical form. -/
def MemoryInv (s : State) : Prop := s.gpio.wf = true

/-- OUT(PIN_CLK) as READY, or the command in progress and its UPC, fix it; none where no rule fixes it
(41_pin_config.md R102 to R104, 42_poll.md R111, R119). -/
def clkNow (r : Srcp) : Option Bool :=
  if r.busy then
    match r.cur with
    | .poll => some (decide (r.upc.toNat < 4 ∨ (r.upc.toNat - 4) % 5 ≤ 1 ∨ (r.upc.toNat - 4) % 5 = 4))
    | .idle => if r.lstate = .ready ∨ 1 ≤ r.upc.toNat then some true else none
    | .teardown => if 1 ≤ r.upc.toNat then some false else if r.lstate = .ready then some true else none
    | _ => if r.lstate = .ready then some true else none
  else if r.lstate = .ready then some true else none

/-- OUT(PIN_LATCH) as READY, or the command in progress and its UPC, fix it; none where no rule fixes it
(41_pin_config.md R102 to R104, 42_poll.md R111, R119). -/
def latchNow (r : Srcp) : Option Bool :=
  if r.busy then
    match r.cur with
    | .poll => some (decide (r.upc.toNat = 1 ∨ r.upc.toNat = 2))
    | .teardown => if r.lstate = .ready ∨ 2 ≤ r.upc.toNat then some false else none
    | _ => if r.lstate = .ready then some false else none
  else if r.lstate = .ready then some false else none

/-- The direction of a line's pin as the lifecycle fixes it: set one by one by CONFIGURE at UPC 3 to 5, then kept
(41_pin_config.md R101, R103). -/
def directionSet (r : Srcp) (l : Line) : Bool :=
  linesHeld r.lstate ||
    (r.busy && r.cur == .configure && decide (lineIndex l + 3 < r.upc.toNat))

/-- The direction CONFIGURE gives a line (41_pin_config.md R101). -/
def lineDir : Line → Dir
  | .clk => .output
  | .latch => .output
  | .data => .input

/-- The lines are as the lifecycle says: the latches of CLK and LATCH (41_pin_config.md R104, 42_poll.md R119) and the
directions of the three pins (41_pin_config.md R101). -/
structure LinesInv (s : State) : Prop where
  clk_level : ∀ b, clkNow s.srcp = some b → pinOut s.gpio s.params.pinClk = b
  latch_level : ∀ b, latchNow s.srcp = some b → pinOut s.gpio s.params.pinLatch = b
  directions : ∀ l, directionSet s.srcp l = true →
    pinFsel s.params s.gpio (linePin s.params l) = dirCode (lineDir l)

/-- `f` applied n times. -/
def times {α : Type} (f : α → α) : Nat → α → α
  | 0, a => a
  | n + 1, a => times f n (f a)

/-- The next step is SEQ's turn: nothing pending, SEQ named, or HOST waiting for BUSY = 0 (log 15, log 22). -/
def seqsTurn (s : State) : Bool :=
  match s.inputs with
  | [] => true
  | .seq :: _ => true
  | .waitIdle :: _ => s.srcp.busy
  | _ => false

/-- The next step is SEQ's, at the micro-operation of place n of op's microprogram. -/
def seqRunsAt (s : State) (op : Op) (n : Nat) : Prop :=
  seqsTurn s = true ∧ s.resetLine = false ∧ s.srcp.busy = true ∧ s.srcp.cur = op ∧
    s.srcp.upc.toNat = n

/-- How many of the next k ticks of an EMIT have EVT_READY = 1: the beats SINK accepts in them (43_decode.md R136). -/
def beatsAccepted : Nat → Env → Nat
  | 0, _ => 0
  | k + 1, e => (if nextReady e then 1 else 0) + beatsAccepted k (tookReady e)

/-- The fairness condition on SINK (70_reset_and_hazards.md R190): while EVT_VALID = 1, which is so at tick k as long as
fewer than the decode's eleven beats are accepted before it, SINK asserts EVT_READY at k or at some later tick. -/
def SinkFair (s : State) : Prop :=
  evtValid s.srcp = true → ∀ k, s.srcp.upc.toNat + beatsAccepted k s.env < 11 →
    ∃ n, k ≤ n ∧ nextReady (times tookReady n s.env) = true

/-- From s to t the three pins got CONFIGURE's directions, and every latch and every other pin's function-select field
stayed (41_pin_config.md R101). -/
def directionsOnly (s t : State) : Prop :=
  pinFsel s.params t.gpio s.params.pinClk = 1#3 ∧ pinFsel s.params t.gpio s.params.pinLatch = 1#3 ∧
  pinFsel s.params t.gpio s.params.pinData = 0#3 ∧ t.gpio.out = s.gpio.out ∧
  ∀ q, q < s.params.pins.length → q ≠ s.params.pinClk → q ≠ s.params.pinLatch → q ≠ s.params.pinData →
    pinFsel s.params t.gpio q = pinFsel s.params s.gpio q

/-- n steps, stopping at the first fault or refusal. -/
def runFor : Nat → State → Host.Outcome State Fault Refusal
  | 0, s => .next s
  | n + 1, s =>
    match step s with
    | .next t => runFor n t
    | .fault r => .fault r
    | .refused r => .refused r

/-- The environment at the i-th sample of a POLL that began with e: two waits before the first cycle, then a level
and two waits each cycle (42_poll.md R111). -/
def envAtSample (e : Env) (i : Nat) : Env :=
  times (fun x => tookWait (tookWait (tookLevel x))) i (tookWait (tookWait e))

/-- The eleven words of a decode of r, in order (43_decode.md R133, R134). -/
def decodeWords (r : Half) : List Half := (List.range 11).map fun k => evword r k

end Sys2Proof.Machine
end

