-- ==== Sys2Proof/Certificates/Slice0/Obligations.lean ====
section
/-! DEFINITION. The statements for the provers. Each says which rule of spec/ it formalises. -/

open Sys2Proof Sys2Proof.Machine

/-! ### Encoding -/

/-- 30_encoding.md R70 to R78: every code has at most one meaning, every instruction exactly one code. -/
def Obligations.DecodeAndEncodeAgree : Prop :=
  ∀ (c : Code) (i : Instr), decode c = .ok i ↔ encode i = c

/-- 30_encoding.md R72, R77, R78: the words the decoder takes are those with OP ≤ 6, RSVD = 0, and IMM16 = 0 or
OP = 5; the bytes it takes are those whose fields R77 admits. -/
def Obligations.DecodedCodesAreTheLegalCodes : Prop :=
  (∀ w : Word, (∃ i, decode (.command w) = .ok i) ↔
    (w.extractLsb' 0 4).toNat ≤ 6 ∧ (w.extractLsb' 4 12).toNat = 0 ∧
      ((w.extractLsb' 16 16).toNat = 0 ∨ (w.extractLsb' 0 4).toNat = 5)) ∧
  ∀ b : Byte, (∃ i, decode (.microOp b) = .ok i) ↔ legalMicroOp b = true

/-- 30_encoding.md R71, R77: a few words and bytes written out from the tables. -/
def Obligations.WrittenOutWordsDecode : Prop :=
  decode (.command 0x00000003#32) = .ok .poll ∧
  decode (.command 0x00300005#32) = .ok (.decodeImm 0x0030#16) ∧
  decode (.command 0x00000006#32) = .ok .teardown ∧
  decode (.microOp 0x70#8) = .ok .smplData ∧
  decode (.microOp 0x89#8) = .ok .lcfgLatchOut ∧
  decode (.microOp 0xD0#8) = .ok .lrelData

/-- 42_poll.md R111: the ROM image of POLL, UPC 0 first, and IDX. -/
def Obligations.PollMicroprogramIsTheRomImage : Prop :=
  microprogram .poll =
    [0x28#8, 0x00#8, 0x48#8, 0x01#8,
     0x70#8, 0x40#8, 0x02#8, 0x20#8, 0x03#8, 0x70#8, 0x40#8, 0x02#8, 0x20#8, 0x03#8,
     0x70#8, 0x40#8, 0x02#8, 0x20#8, 0x03#8, 0x70#8, 0x40#8, 0x02#8, 0x20#8, 0x03#8,
     0x70#8, 0x40#8, 0x02#8, 0x20#8, 0x03#8, 0x70#8, 0x40#8, 0x02#8, 0x20#8, 0x03#8,
     0x70#8, 0x40#8, 0x02#8, 0x20#8, 0x03#8, 0x70#8, 0x40#8, 0x02#8, 0x20#8, 0x03#8,
     0x70#8, 0x40#8, 0x02#8, 0x20#8, 0x03#8, 0x70#8, 0x40#8, 0x02#8, 0x20#8, 0x03#8,
     0x70#8, 0x40#8, 0x02#8, 0x20#8, 0x03#8, 0x70#8, 0x40#8, 0x02#8, 0x20#8, 0x03#8,
     0x70#8, 0x40#8, 0x02#8, 0x20#8, 0x03#8, 0x70#8, 0x40#8, 0x02#8, 0x20#8, 0x03#8,
     0x70#8, 0x40#8, 0x02#8, 0x20#8, 0x03#8, 0x70#8, 0x40#8, 0x02#8, 0x20#8, 0x03#8] ∧
  (microprogram .poll).length = 84 ∧
  ∀ u : BitVec 7, 4 ≤ u.toNat → idx u = (u.toNat - 4) / 5

/-! ### Reset -/

/-- 10_state.md R46: SRCP's state and what HOST reads after reset. -/
def Obligations.ResetValues : Prop :=
  State.reset.srcp =
    { lstate := .unconfigured, busy := false, cur := .nop, upc := 0#7, shift := 0x0000#16, evtSrc := 0x0000#16,
      dcnt := 0, raw := 0x0000#16, rawValid := false, errResource := false, errAlloc := false, errIllegal := false,
      errBusy := false, errState := false, errcmd := 0x00000000#32, ownedClk := false, ownedLatch := false,
      ownedData := false } ∧
  lstateCode State.reset.srcp.lstate = 0#3 ∧ opCode State.reset.srcp.cur = 0#4 ∧
  evtValid State.reset.srcp = false ∧
  hostRead State.reset.srcp 0x04 = 0x00000000#32 ∧
  hostRead State.reset.srcp 0x0C = 0x000112E1#32 ∧
  hostRead State.reset.srcp 0x10 = 0x00190001#32 ∧
  hostRead State.reset.srcp 0x14 = 0x00000728#32

/-- 70_reset_and_hazards.md R180 to R182: from any state, in the middle of a command or not, RESET sets SRCP's state
to its reset values and changes nothing outside SRCP; no event is on offer after it. -/
def Obligations.ResetAbortsAndKeepsTheOutside : Prop :=
  ∀ (s : State) (rest : List Input), s.inputs = .resetAssert :: rest →
    step s = .next { s with srcp := Srcp.reset, resetLine := true, inputs := rest } ∧
    evtValid Srcp.reset = false ∧ statusWord Srcp.reset = 0x00000000#32

/-- 70_reset_and_hazards.md R180: while RESET is held asserted, HOST reads return the reset values and HOST writes
have no effect; that the write is acknowledged is log 16. -/
def Obligations.HostAccessWhileResetIsHeld : Prop :=
  ∀ (s : State) (off : Nat) (v : Word) (rest : List Input),
    s.resetLine = true → off < 64 → off % 4 = 0 →
    (s.inputs = hostFetch s.params off :: rest →
      step s = .next { s with inputs := rest, responses := .data (hostRead Srcp.reset off) :: s.responses }) ∧
    (s.inputs = hostWord s.params off v :: rest →
      step s = .next { s with inputs := rest, responses := .ack :: s.responses })

/-- 70_reset_and_hazards.md R183, 60_exceptions.md R167: with BUSY = 0 and nothing from the outside, a step changes
nothing. -/
def Obligations.NothingRunsBetweenCommands : Prop :=
  ∀ s : State, s.srcp.busy = false → s.inputs = [] → step s = .next s

/-! ### A step runs the decoded instruction -/

/-- 10_state.md R35, 40_line_ops.md R97: on SEQ's turn, with BUSY = 1, the step is `exec` of the instruction whose
byte is due. That is the byte at UPC in CUR's microprogram. On CONFIGURE's acquiring path at UPC 3 with the three lines
owned, the sink is asked first (41_pin_config.md R101), and where it is absent LREL CLK is due; where a line before UPC
is not owned, CONFIGURE has failed and the LREL of the first line SRCP still owns is due (R101; log 9). SEQ's turn is
taken from the pending inputs where it is named there; an empty list, and HOST waiting for BUSY = 0, leave the turn to
SEQ (log 15, log 22). -/
def Obligations.SeqTurnRunsTheFetchedMicroOp : Prop :=
  ∀ (s : State) (b : Byte) (i : Instr) (e : Env) (rest : List Input),
    s.srcp.busy = true → s.resetLine = false →
    ((microprogram s.srcp.cur)[s.srcp.upc.toNat]? = some b ∧ e = s.env ∧
        (s.srcp.cur = .configure → linesHeld s.srcp.lstate = true ∨
          s.srcp.upc ≠ 3#7 ∧ ∀ l, lineIndex l < s.srcp.upc.toNat → owned s.srcp l = true)) ∨
      (s.srcp.cur = .configure ∧ linesHeld s.srcp.lstate = false ∧ s.srcp.upc = 3#7 ∧
        (∀ l, owned s.srcp l = true) ∧ e = tookSinkOk s.env ∧ b = if nextSinkOk s.env then 0x81#8 else 0xC0#8) ∨
      (s.srcp.cur = .configure ∧ linesHeld s.srcp.lstate = false ∧
        (∃ l, lineIndex l < s.srcp.upc.toNat ∧ owned s.srcp l = false) ∧ e = s.env ∧
        (s.srcp.ownedClk = true ∧ b = 0xC0#8 ∨
          s.srcp.ownedClk = false ∧ s.srcp.ownedLatch = true ∧ b = 0xC8#8 ∨
          s.srcp.ownedClk = false ∧ s.srcp.ownedLatch = false ∧ s.srcp.ownedData = true ∧ b = 0xD0#8)) →
    decode (.microOp b) = .ok i →
    (s.inputs = [] → step s = exec i { s with env := e }) ∧
    (s.inputs = .waitIdle :: rest → step s = exec i { s with env := e }) ∧
    (s.inputs = .seq :: rest → step s = exec i { s with inputs := rest, env := e })

/-- 10_state.md R23, 20_memory.md R52: HOST's write of a well-formed word to CMD runs that word's command, after the
write is answered (log 15). -/
def Obligations.CommandWriteRunsTheDecodedCommand : Prop :=
  ∀ (s : State) (w : Word) (i : Instr) (rest : List Input),
    s.resetLine = false → s.inputs = hostWord s.params 0x00 w :: rest → decode (.command w) = .ok i →
    step s = exec i { s with inputs := rest, responses := .ack :: s.responses }

/-! ### Commands: acceptance -/

/-- 41_pin_config.md R100, 60_exceptions.md R151: an accepted NOP completes at once and writes CUR only (that it
writes CUR is log 11). -/
def Obligations.NopCompletesAtOnce : Prop :=
  ∀ s : State, s.srcp.busy = false → exec .nop s = .next { s with srcp := { s.srcp with cur := .nop } }

/-- 41_pin_config.md R101, 60_exceptions.md R151: CONFIGURE is accepted in every state but FAILED; it begins at UPC 3
in CONFIGURED and READY, at UPC 0 in UNCONFIGURED and TORN_DOWN. -/
def Obligations.ConfigureAccepted : Prop :=
  ∀ s : State, s.srcp.busy = false →
    (s.srcp.lstate = .unconfigured ∨ s.srcp.lstate = .tornDown →
      exec .configure s = .next { s with srcp := { s.srcp with cur := .configure, busy := true, upc := 0#7 } }) ∧
    (s.srcp.lstate = .configured ∨ s.srcp.lstate = .ready →
      exec .configure s = .next { s with srcp := { s.srcp with cur := .configure, busy := true, upc := 3#7 } })

/-- 41_pin_config.md R102, 60_exceptions.md R151: IDLE is accepted in CONFIGURED and READY. -/
def Obligations.IdleAccepted : Prop :=
  ∀ s : State, s.srcp.busy = false → s.srcp.lstate = .configured ∨ s.srcp.lstate = .ready →
    exec .idle s = .next { s with srcp := { s.srcp with cur := .idle, busy := true, upc := 0#7 } }

/-- 42_poll.md R110, 60_exceptions.md R151: POLL is accepted in READY, and clears SHIFT. -/
def Obligations.PollAccepted : Prop :=
  ∀ s : State, s.srcp.busy = false → s.srcp.lstate = .ready →
    exec .poll s =
      .next { s with srcp := { s.srcp with cur := .poll, busy := true, upc := 0#7, shift := 0x0000#16 } }

/-- 43_decode.md R137, 60_exceptions.md R151: DECODE is accepted in CONFIGURED and READY with RAW_VALID = 1, and
latches RAW. -/
def Obligations.DecodeAccepted : Prop :=
  ∀ s : State, s.srcp.busy = false → s.srcp.lstate = .configured ∨ s.srcp.lstate = .ready →
    s.srcp.rawValid = true →
    exec .decode s =
      .next { s with srcp := { s.srcp with cur := .decode, busy := true, upc := 0#7, evtSrc := s.srcp.raw } }

/-- 43_decode.md R138, 60_exceptions.md R151: DECODE_IMM is accepted in CONFIGURED and READY, whatever RAW_VALID is,
and latches its operand. -/
def Obligations.DecodeImmAccepted : Prop :=
  ∀ (s : State) (imm : BitVec 16), s.srcp.busy = false → s.srcp.lstate = .configured ∨ s.srcp.lstate = .ready →
    exec (.decodeImm imm) s =
      .next { s with srcp := { s.srcp with cur := .decodeImm, busy := true, upc := 0#7, evtSrc := imm } }

/-- 41_pin_config.md R103, 60_exceptions.md R151: TEARDOWN is accepted in every state. Where no line is held it ends
at once. -/
def Obligations.TeardownAccepted : Prop :=
  ∀ s : State, s.srcp.busy = false →
    (s.srcp.lstate = .configured ∨ s.srcp.lstate = .ready →
      exec .teardown s = .next { s with srcp := { s.srcp with cur := .teardown, busy := true, upc := 0#7 } }) ∧
    (s.srcp.lstate = .unconfigured ∨ s.srcp.lstate = .tornDown ∨ s.srcp.lstate = .failed →
      exec .teardown s = .next { s with srcp := { s.srcp with
        cur := .teardown, busy := false, upc := 0#7, rawValid := false, lstate := .tornDown } })

/-! ### Commands: rejection -/

/-- 60_exceptions.md R151, 42_poll.md R125: while BUSY = 1 every word written to CMD, well-formed or not, sets
ERR_BUSY and ERRCMD, and nothing else of SRCP, the lines or the rest changes. -/
def Obligations.BusyRejectsEveryWord : Prop :=
  ∀ (s : State) (w : Word) (rest : List Input),
    s.resetLine = false → s.srcp.busy = true → s.inputs = hostWord s.params 0x00 w :: rest →
    step s = .next { s with
      inputs := rest, responses := .ack :: s.responses, srcp := { s.srcp with errBusy := true, errcmd := w } }

/-- 30_encoding.md R72: with BUSY = 0 a word that is not well-formed sets ERR_ILLEGAL and ERRCMD, and has no other
effect. -/
def Obligations.IllegalWordRaisesErrIllegal : Prop :=
  ∀ (s : State) (w : Word) (rest : List Input),
    s.resetLine = false → s.srcp.busy = false → s.inputs = hostWord s.params 0x00 w :: rest →
    ¬ ((w.extractLsb' 0 4).toNat ≤ 6 ∧ (w.extractLsb' 4 12).toNat = 0 ∧
        ((w.extractLsb' 16 16).toNat = 0 ∨ (w.extractLsb' 0 4).toNat = 5)) →
    step s = .next { s with
      inputs := rest, responses := .ack :: s.responses, srcp := { s.srcp with errIllegal := true, errcmd := w } }

/-- 60_exceptions.md R152: each cell "STATE" of the table. The rejected command sets ERR_STATE and ERRCMD, its own
word, and nothing else changes (60_exceptions.md R153). -/
def Obligations.OutOfPlaceCommandRaisesErrState : Prop :=
  ∀ (s : State) (i : Instr) (w : Word), s.srcp.busy = false → encode i = .command w →
    (i = .configure ∧ s.srcp.lstate = .failed) ∨
    (i = .idle ∧ s.srcp.lstate ∈ [LState.unconfigured, .tornDown, .failed]) ∨
    (i = .poll ∧ s.srcp.lstate ∈ [LState.unconfigured, .configured, .tornDown, .failed]) ∨
    (i = .decode ∧ (s.srcp.lstate ∈ [LState.unconfigured, .tornDown, .failed] ∨ s.srcp.rawValid = false)) ∨
    ((∃ imm, i = .decodeImm imm) ∧ s.srcp.lstate ∈ [LState.unconfigured, .tornDown, .failed]) →
    exec i s = .next { s with srcp := { s.srcp with errState := true, errcmd := w } }

/-- 60_exceptions.md R153: raising an error sets its bit of STATUS and ERRCMD; RESOURCE and ALLOC also end the command
(BUSY and UPC to 0). Nothing else changes. -/
def Obligations.RaisingAnErrorWritesItsBit : Prop :=
  ∀ (s : State) (e : ErrCode) (w : Word), ∃ r : Srcp,
    raiseErr e w s = { s with srcp := r } ∧ r.errcmd = w ∧
    (∀ i, i < 32 → (statusWord r).getLsbD i =
      if i = errBit e then true
      else if i = 0 ∧ (e = .resource ∨ e = .alloc) then false else (statusWord s.srcp).getLsbD i) ∧
    r.upc = (if e = .resource ∨ e = .alloc then 0#7 else s.srcp.upc) ∧
    r.cur = s.srcp.cur ∧ r.lstate = s.srcp.lstate ∧ r.shift = s.srcp.shift ∧ r.evtSrc = s.srcp.evtSrc ∧
    r.dcnt = s.srcp.dcnt ∧ r.raw = s.srcp.raw ∧ (∀ l, owned r l = owned s.srcp l) ∧
    errBit .resource = 8 ∧ errBit .alloc = 9 ∧ errBit .illegal = 10 ∧ errBit .busy = 11 ∧ errBit .state = 12

/-! ### Micro-operations -/

/-- 10_state.md R35, 42_poll.md R117: a completed micro-operation that is not the last moves UPC by one; the last one
ends the command with BUSY = 0, UPC = 0 and the command's completion effect, in the same step (log 8). -/
def Obligations.SeqMovesOnOrCompletes : Prop :=
  ∀ r : Srcp,
    (r.upc.toNat + 1 < (microprogram r.cur).length →
      advance r = { r with upc := r.upc + 1#7 } ∧ (r.upc + 1#7).toNat = r.upc.toNat + 1) ∧
    ((microprogram r.cur).length ≤ r.upc.toNat + 1 →
      (r.cur = .configure → r.lstate = .unconfigured ∨ r.lstate = .tornDown →
        advance r = { r with busy := false, upc := 0#7, lstate := .configured }) ∧
      (r.cur = .configure → r.lstate = .configured ∨ r.lstate = .ready →
        advance r = { r with busy := false, upc := 0#7 }) ∧
      (r.cur = .idle → advance r = { r with busy := false, upc := 0#7, lstate := .ready }) ∧
      (r.cur = .poll → advance r = { r with busy := false, upc := 0#7, raw := r.shift, rawValid := true }) ∧
      (r.cur = .decode ∨ r.cur = .decodeImm → advance r = { r with busy := false, upc := 0#7 }) ∧
      (r.cur = .teardown →
        advance r = { r with busy := false, upc := 0#7, rawValid := false, lstate := .tornDown }))

/-- 40_line_ops.md R93, R94: LSET drives its line's pin high, LCLR drives it low. No other pin's latch, no byte of a
function-select register and nothing but UPC's move and what CTRL sees of it (log 20) changes. That no two pins share a bit is log 2. -/
def Obligations.LsetAndLclrDriveOnlyTheirPin : Prop :=
  ∀ (s : State) (i : Instr) (l : Line) (b : Bool), s.params.wf = true →
    (i = .lsetClk ∧ l = .clk ∧ b = true) ∨ (i = .lsetLatch ∧ l = .latch ∧ b = true) ∨
      (i = .lclrClk ∧ l = .clk ∧ b = false) ∨ (i = .lclrLatch ∧ l = .latch ∧ b = false) →
    ∃ t, exec i s = .next t ∧
      pinOut t.gpio (linePin s.params l) = b ∧
      (∀ q, q ≠ linePin s.params l → pinOut t.gpio q = pinOut s.gpio q) ∧
      (∀ a, readByte t.gpio.fsel a = readByte s.gpio.fsel a) ∧
      t = { s with
        srcp := advance s.srcp
        gpio := t.gpio
        ctrl := ctrlSees s.ctrl (seenLevel s.params s.gpio s.params.pinClk) (seenLevel s.params t.gpio s.params.pinClk)
          (seenLevel s.params t.gpio s.params.pinLatch) }

/-- 40_line_ops.md R92: LCFG stores the direction's code in the function-select field of its line's pin. Every other
bit of that register (log 25), every byte outside it, every other pin's field (log 2) and every latch keep their value;
what CTRL sees of it is log 20. -/
def Obligations.LcfgWritesOnlyItsField : Prop :=
  ∀ (s : State) (i : Instr) (l : Line) (d : Dir), s.params.wf = true →
    (i = .lcfgClkOut ∧ l = .clk ∧ d = .output) ∨ (i = .lcfgLatchOut ∧ l = .latch ∧ d = .output) ∨
      (i = .lcfgDataIn ∧ l = .data ∧ d = .input) →
    ∃ t, exec i s = .next t ∧
      pinFsel s.params t.gpio (linePin s.params l) = dirCode d ∧
      (∀ q, q < s.params.pins.length → q ≠ linePin s.params l →
        pinFsel s.params t.gpio q = pinFsel s.params s.gpio q) ∧
      (∀ k, k < 32 → (k < (pinMap s.params (linePin s.params l)).fpos ∨
          (pinMap s.params (linePin s.params l)).fpos + 3 ≤ k) →
        (readWord t.gpio.fsel (fselAddr s.params (linePin s.params l))).getLsbD k =
          (readWord s.gpio.fsel (fselAddr s.params (linePin s.params l))).getLsbD k) ∧
      (∀ a, (a < fselAddr s.params (linePin s.params l) ∨ fselAddr s.params (linePin s.params l) + 4 ≤ a) →
        readByte t.gpio.fsel a = readByte s.gpio.fsel a) ∧
      t.gpio.out = s.gpio.out ∧
      t = { s with
        srcp := advance s.srcp
        gpio := t.gpio
        ctrl := ctrlSees s.ctrl (seenLevel s.params s.gpio s.params.pinClk) (seenLevel s.params t.gpio s.params.pinClk)
          (seenLevel s.params t.gpio s.params.pinLatch) }

/-- 40_line_ops.md R95: SMPL writes the complement of Level(DATA) in SHIFT[IDX], and no other bit of SHIFT. The level is
the draw, whatever the data pin's direction (log 23), but where a reference controller is attached to an input pin and
has a bit left: that it then answers is the model's choice (log 20). -/
def Obligations.SmplStoresTheInvertedLevel : Prop :=
  ∀ s : State, s.params.wf = true →
    (∃ v : Half,
      exec .smplData s =
        .next { s with srcp := advance { s.srcp with shift := v }, env := tookLevel s.env } ∧
      (∀ j, j < 16 → v.getLsbD j = if j = idx s.srcp.upc then !dataLevel s else s.srcp.shift.getLsbD j)) ∧
    (s.ctrl.attached = false ∨ 16 ≤ s.ctrl.k ∨ pinFsel s.params s.gpio s.params.pinData = 1#3 →
      dataLevel s = nextLevel s.env) ∧
    (s.ctrl.attached = true → s.ctrl.k ≤ 15 → pinFsel s.params s.gpio s.params.pinData ≠ 1#3 →
      dataLevel s = !s.ctrl.creg.getLsbD s.ctrl.k)

/-- 40_line_ops.md R96: WAIT holds for n ticks, n = ceil(d × F_TICK) for some d of the class's range, both ends
included, and any such n may be drawn. Only UPC's move, the draw and the ticks waited change; DCNT ends at 0 (log
12). -/
def Obligations.WaitHoldsWithinItsRange : Prop :=
  ∀ (s : State) (i : Instr) (lo hi : Nat),
    (i = .waitTLh ∧ lo = 12 ∧ hi = 18) ∨ (i = .waitTLl ∧ lo = 6 ∧ hi = 12) ∨
      (i = .waitTCl ∧ lo = 6 ∧ hi = 12) ∨ (i = .waitTCh ∧ lo = 6 ∧ hi = 12) →
    ∃ n : Nat,
      exec i s =
        .next { s with srcp := advance { s.srcp with dcnt := 0 }, env := tookWait s.env, waited := s.waited + n } ∧
      lo * s.params.fTick ≤ n * 1000000 ∧ n * 1000000 < hi * s.params.fTick + 1000000 ∧
      (lo * s.params.fTick ≤ nextWait s.env * 1000000 →
        nextWait s.env * 1000000 < hi * s.params.fTick + 1000000 → n = nextWait s.env)

/-- 40_line_ops.md R90, R97: a line already owned is not requested again; a granted line becomes owned. UPC advances. -/
def Obligations.LacqOfAGrantedLine : Prop :=
  ∀ s : State,
    (s.srcp.ownedClk = true → exec .lacqClk s = .next { s with srcp := advance s.srcp }) ∧
    (s.srcp.ownedLatch = true → exec .lacqLatch s = .next { s with srcp := advance s.srcp }) ∧
    (s.srcp.ownedData = true → exec .lacqData s = .next { s with srcp := advance s.srcp }) ∧
    (s.srcp.ownedClk = false → nextGrant s.env = true →
      exec .lacqClk s =
        .next { s with srcp := advance { s.srcp with ownedClk := true }, env := tookGrant s.env }) ∧
    (s.srcp.ownedLatch = false → nextGrant s.env = true →
      exec .lacqLatch s =
        .next { s with srcp := advance { s.srcp with ownedLatch := true }, env := tookGrant s.env }) ∧
    (s.srcp.ownedData = false → nextGrant s.env = true →
      exec .lacqData s =
        .next { s with srcp := advance { s.srcp with ownedData := true }, env := tookGrant s.env })

/-- 41_pin_config.md R101, 60_exceptions.md R155: a denied line stays unowned and, where SRCP owns another, UPC advances
as after every LACQ (10_state.md R35, 40_line_ops.md R97). CONFIGURE then relinquishes the lines it owns, in order, one
LREL a step, and ends in the last of these steps, or in the LACQ's own where it owns none, with no line owned,
LSTATE = FAILED, ERR_RESOURCE set and ERRCMD = 0x00000001; the GPIO register file is not touched and the sink is not
asked. Which step ends it is log 9, ERRCMD's value log 10. -/
def Obligations.LacqOfADeniedLineFailsConfigure : Prop :=
  (∀ (s : State) (i : Instr) (l : Line),
    (i = .lacqClk ∧ l = .clk) ∨ (i = .lacqLatch ∧ l = .latch) ∨ (i = .lacqData ∧ l = .data) →
    owned s.srcp l = false → nextGrant s.env = false →
    ((∀ m, owned s.srcp m = false) →
      exec i s = .next { s with
        env := tookGrant s.env
        srcp := { s.srcp with
          lstate := .failed, busy := false, upc := 0#7, errResource := true, errcmd := 0x00000001#32 } }) ∧
    ((∃ m, owned s.srcp m = true) →
      exec i s = .next { s with env := tookGrant s.env, srcp := advance s.srcp })) ∧
  ∀ s : State, s.inputs = [] → s.resetLine = false → s.srcp.busy = true → s.srcp.cur = .configure →
    linesHeld s.srcp.lstate = false → (∃ l, lineIndex l < s.srcp.upc.toNat ∧ owned s.srcp l = false) →
    (s.srcp.upc = 3#7 → s.srcp.ownedData = false) → (∃ m, owned s.srcp m = true) →
    runFor (ownedLines s.srcp).length s = .next { s with
      srcp := { s.srcp with
        ownedClk := false, ownedLatch := false, ownedData := false, lstate := .failed, busy := false, upc := 0#7,
        errResource := true, errcmd := 0x00000001#32 } }

/-- 41_pin_config.md R101, 60_exceptions.md R155: where the three lines are granted and the sink, asked after UPC 2, is
not available, CONFIGURE relinquishes them, one LREL a step (40_line_ops.md R97), LREL CLK in the step that asks, and
ends in the last of these steps with no line owned, LSTATE = FAILED, ERR_ALLOC set and ERRCMD = 0x00000001. Which step
asks and which ends it is log 9, ERRCMD's value log 10. -/
def Obligations.AbsentSinkFailsConfigure : Prop :=
  ∀ s : State, s.inputs = [] → s.resetLine = false → s.srcp.busy = true → s.srcp.cur = .configure →
    linesHeld s.srcp.lstate = false → s.srcp.upc = 3#7 → (∀ m, owned s.srcp m = true) → nextSinkOk s.env = false →
    step s = .next { s with env := tookSinkOk s.env, srcp := { s.srcp with ownedClk := false } } ∧
    runFor 3 s = .next { s with
      env := tookSinkOk s.env
      srcp := { s.srcp with
        ownedClk := false, ownedLatch := false, ownedData := false, lstate := .failed, busy := false, upc := 0#7,
        errAlloc := true, errcmd := 0x00000001#32 } }

/-- 40_line_ops.md R91: LREL, encoded as its rule says, relinquishes its line, owned or not, and touches neither FSEL
nor OUT. SEQ then moves on in the microprogram. While CUR = CONFIGURE, whose microprogram holds no LREL, it is a release
step (41_pin_config.md R101): UPC stays (10_state.md R35) while another line is owned, and with none left the command
ends, by an absent sink where DATA was owned at UPC 3, else by a denied line (log 9, log 10). -/
def Obligations.LrelRelinquishesItsLine : Prop :=
  encode .lrelClk = .microOp 0xC0#8 ∧ encode .lrelLatch = .microOp 0xC8#8 ∧ encode .lrelData = .microOp 0xD0#8 ∧
  ∀ (s : State) (i : Instr) (l : Line),
    (i = .lrelClk ∧ l = .clk) ∨ (i = .lrelLatch ∧ l = .latch) ∨ (i = .lrelData ∧ l = .data) →
    ∃ t, exec i s = .next t ∧ owned t.srcp l = false ∧ (∀ m, m ≠ l → owned t.srcp m = owned s.srcp m) ∧
      t.gpio = s.gpio ∧
      (s.srcp.cur ≠ .configure → t = { s with srcp := advance (setOwned l false s.srcp) }) ∧
      (s.srcp.cur = .configure →
        ((∃ m, m ≠ l ∧ owned s.srcp m = true) → t = { s with srcp := setOwned l false s.srcp }) ∧
        ((∀ m, m ≠ l → owned s.srcp m = false) →
          t = raiseErr (if s.srcp.upc = 3#7 ∧ s.srcp.ownedData = true then .alloc else .resource) 0x00000001#32
            { s with srcp := { setOwned l false s.srcp with lstate := .failed } }))

/-- 43_decode.md R136: at a tick with EVT_READY = 1 the beat on offer, evword(EVT_SRC, UPC), transfers; at any other
tick SEQ keeps offering it. That a step is one tick is log 13. -/
def Obligations.EmitTransfersWhenTheSinkIsReady : Prop :=
  ∀ s : State,
    (nextReady s.env = true →
      exec .emit s = .next { s with
        srcp := advance s.srcp
        env := tookReady s.env
        delivered := evword s.srcp.evtSrc s.srcp.upc.toNat :: s.delivered }) ∧
    (nextReady s.env = false → exec .emit s = .next { s with env := tookReady s.env })

/-! ### Events -/

/-- 43_decode.md R134: the event word of each position, by its fields. -/
def Obligations.EventWordsAreTheFields : Prop :=
  ∀ (r : Half) (k : Nat),
    (k ≤ 3 → evword r k = 0b00#2 ++ 0b00#2 ++ BitVec.ofNat 4 k ++ 0#6 ++ 0#1 ++ r.extractLsb' k 1) ∧
    (k = 4 → evword r k = 0b01#2 ++ 0b00#2 ++ 4#4 ++ 0#6 ++ encAxis (axisValue (r.getLsbD 4) (r.getLsbD 5))) ∧
    (k = 5 → evword r k = 0b01#2 ++ 0b00#2 ++ 6#4 ++ 0#6 ++ encAxis (axisValue (r.getLsbD 6) (r.getLsbD 7))) ∧
    (6 ≤ k ∧ k ≤ 9 →
      evword r k = 0b00#2 ++ 0b00#2 ++ BitVec.ofNat 4 (k + 2) ++ 0#6 ++ 0#1 ++ r.extractLsb' (k + 2) 1) ∧
    (k = 10 → evword r k = 0x8000#16)

/-- 43_decode.md R132: the table of ax and enc; enc is two's complement, at any width, and never gives the code 10. -/
def Obligations.NegativeDirectionWins : Prop :=
  encAxis (axisValue false false) = 0b00#2 ∧ encAxis (axisValue false true) = 0b01#2 ∧
  encAxis (axisValue true false) = 0b11#2 ∧ encAxis (axisValue true true) = 0b11#2 ∧
  (encAxis .negative).toInt = -1 ∧ (encAxis .zero).toInt = 0 ∧ (encAxis .positive).toInt = 1 ∧
  ∀ v, encAxis v ≠ 0b10#2 ∧ ∀ n, 2 ≤ n → ((encAxis v).signExtend n).toInt = (encAxis v).toInt

/-- 43_decode.md R139: eleven events, eight keys, two axes and the sync, in positions that do not depend on r. -/
def Obligations.DecodeHasItsShape : Prop :=
  ∀ r : Half, (decodeEvents r).length = 11 ∧
    (∀ k e, (decodeEvents r)[k]? = some e →
      ((∃ n b, e = .key n b) ↔ k ∈ [0, 1, 2, 3, 6, 7, 8, 9]) ∧
      ((∃ n v, e = .axis n v) ↔ k ∈ [4, 5]) ∧ (e = .sync ↔ k = 10)) ∧
    ∀ k, (evword r k).extractLsb' 8 8 = (evword 0x0000#16 k).extractLsb' 8 8

/-- 43_decode.md R139, R140: two values give the same eleven words exactly when they agree on bits 0 to 11, but for
bit 5 where bit 4 is set in both and bit 7 where bit 6 is set in both. -/
def Obligations.EventsDetermineTheSampleUpToPrecedence : Prop :=
  ∀ r r' : Half, (∀ k, k < 11 → evword r k = evword r' k) ↔
    ∀ i, i < 12 → r.getLsbD i = r'.getLsbD i ∨
      (i = 5 ∧ r.getLsbD 4 = true ∧ r'.getLsbD 4 = true) ∨ (i = 7 ∧ r.getLsbD 6 = true ∧ r'.getLsbD 6 = true)

/-- 43_decode.md R140: bits 12 to 15 affect no event. -/
def Obligations.HighBitsAffectNoEvent : Prop :=
  ∀ r : Half, decodeEvents r = decodeEvents (r &&& 0x0FFF#16) ∧
    ∀ k, evword r k = evword (r &&& 0x0FFF#16) k

/-! ### The host window -/

/-- 10_state.md R24, R25: every bit of the STATUS word. -/
def Obligations.StatusWordFields : Prop :=
  ∀ r : Srcp,
    (statusWord r).getLsbD 0 = r.busy ∧
    (statusWord r).extractLsb' 1 3 =
      (match r.lstate with
        | .unconfigured => 0#3 | .configured => 1#3 | .ready => 2#3 | .tornDown => 3#3 | .failed => 4#3) ∧
    (statusWord r).getLsbD 4 = r.rawValid ∧
    (statusWord r).extractLsb' 5 3 = 0#3 ∧
    (statusWord r).getLsbD 8 = r.errResource ∧ (statusWord r).getLsbD 9 = r.errAlloc ∧
    (statusWord r).getLsbD 10 = r.errIllegal ∧ (statusWord r).getLsbD 11 = r.errBusy ∧
    (statusWord r).getLsbD 12 = r.errState ∧
    (statusWord r).extractLsb' 13 19 = 0#19

/-- 10_state.md R24, 60_exceptions.md R156: a HOST write of v to STATUS clears each bit k in 12..8 with v[k] = 1 and
leaves every other bit, and everything else, unchanged. -/
def Obligations.StatusWriteClearsErrorBits : Prop :=
  ∀ (s : State) (v : Word) (rest : List Input),
    s.resetLine = false → s.inputs = hostWord s.params 0x04 v :: rest →
    ∃ t, step s = .next t ∧
      statusWord t.srcp = statusWord s.srcp &&& ~~~(v &&& 0x00001F00#32) ∧
      t = { s with
        inputs := rest
        responses := .ack :: s.responses
        srcp := { s.srcp with
          errResource := t.srcp.errResource, errAlloc := t.srcp.errAlloc, errIllegal := t.srcp.errIllegal,
          errBusy := t.srcp.errBusy, errState := t.srcp.errState } }

/-- 20_memory.md R52, R54: what a HOST read answers at each word offset of the window; it has no side effect. -/
def Obligations.HostReadsHaveNoSideEffect : Prop :=
  ∀ (s : State) (off : Nat) (rest : List Input),
    s.resetLine = false → off < 64 → off % 4 = 0 → s.inputs = hostFetch s.params off :: rest →
    ∃ v : Word,
      step s = .next { s with inputs := rest, responses := .data v :: s.responses } ∧
      v = (if off = 0x04 then statusWord s.srcp
        else if off = 0x08 then 0x0000#16 ++ s.srcp.raw
        else if off = 0x0C then 0x000112E1#32
        else if off = 0x10 then 0x00190001#32
        else if off = 0x14 then 0x00000728#32
        else if off = 0x18 then s.srcp.errcmd
        else 0x00000000#32)

/-- 10_state.md R31, 20_memory.md R52, R54: a HOST write to any offset but CMD and STATUS has no effect; a HOST read of a
reserved offset returns 0. RESET held or not: that the write is acknowledged while RESET is held is the model's choice
(log 16). -/
def Obligations.OtherOffsetsIgnoreWritesAndReservedReadZero : Prop :=
  ∀ (s : State) (off : Nat) (v : Word) (rest : List Input), off < 64 → off % 4 = 0 →
    (8 ≤ off → s.inputs = hostWord s.params off v :: rest →
      step s = .next { s with inputs := rest, responses := .ack :: s.responses }) ∧
    (0x1C ≤ off → s.inputs = hostFetch s.params off :: rest →
      step s = .next { s with inputs := rest, responses := .data 0x00000000#32 :: s.responses })

/-- 20_memory.md R51, 60_exceptions.md R159: an access in the window that is not 32 bits wide, or not aligned, gets a
bus error and changes no SRCP state; no command is issued. The model's choices: the machine goes on (log 18), an access
wider than the window's end is one bad access (log 17), and a bad access while RESET is held is answered alike (log
16). -/
def Obligations.BusErrorChangesNothing : Prop :=
  ∀ (s : State) (a : HostAccess) (rest : List Input),
    s.params.blockBase ≤ a.addr → a.addr < s.params.blockBase + 64 →
    a.bytes ≠ 4 ∨ (a.addr - s.params.blockBase) % 4 ≠ 0 → s.inputs = .access a :: rest →
    step s = .next { s with inputs := rest, responses := .busError :: s.responses }

/-! ### Whole commands -/

/-- 41_pin_config.md R101: the acquiring path with three grants and the sink available ends after six steps in CONFIGURED
with the three lines owned; the repeat path ends after three steps with LSTATE and OWNED unchanged. Both set the three
directions, change no latch and no other pin's field, and record no error. That the command ends in its last
micro-operation's step is log 8, that the sink is asked in the step of LCFG CLK log 9, the other pins' fields log 2. -/
def Obligations.ConfigureRunConfiguresTheLines : Prop :=
  ∀ s : State, s.params.wf = true → s.inputs = [] → s.resetLine = false →
    s.srcp.busy = true → s.srcp.cur = .configure →
    (s.srcp.upc = 0#7 → s.srcp.lstate = .unconfigured ∨ s.srcp.lstate = .tornDown →
      (∀ l, owned s.srcp l = false) →
      nextGrant s.env = true → nextGrant (tookGrant s.env) = true →
      nextGrant (tookGrant (tookGrant s.env)) = true →
      nextSinkOk (tookGrant (tookGrant (tookGrant s.env))) = true →
      ∃ t, runFor 6 s = .next t ∧
        t.srcp = { s.srcp with
          busy := false, upc := 0#7, lstate := .configured, ownedClk := true, ownedLatch := true,
          ownedData := true } ∧
        directionsOnly s t) ∧
    (s.srcp.upc = 3#7 → s.srcp.lstate = .configured ∨ s.srcp.lstate = .ready →
      ∃ t, runFor 3 s = .next t ∧ t.srcp = { s.srcp with busy := false, upc := 0#7 } ∧ t.env = s.env ∧
        directionsOnly s t)

/-- 41_pin_config.md R102: IDLE's two micro-operations end in READY with clock high and latch low. That two steps end the
command is log 8, that no other pin's latch changes log 2. -/
def Obligations.IdleRunReachesTheIdleLevels : Prop :=
  ∀ s : State, s.params.wf = true → s.inputs = [] → s.resetLine = false →
    s.srcp.busy = true → s.srcp.cur = .idle → s.srcp.upc = 0#7 →
    ∃ t, runFor 2 s = .next t ∧
      t.srcp = { s.srcp with busy := false, upc := 0#7, lstate := .ready } ∧
      pinOut t.gpio s.params.pinClk = true ∧ pinOut t.gpio s.params.pinLatch = false ∧
      (∀ q, q ≠ s.params.pinClk → q ≠ s.params.pinLatch → pinOut t.gpio q = pinOut s.gpio q) ∧
      (∀ a, readByte t.gpio.fsel a = readByte s.gpio.fsel a)

/-- 41_pin_config.md R103: TEARDOWN's five micro-operations drive both outputs low, relinquish the lines, clear
RAW_VALID and keep RAW and the function-select fields. That five steps end the command is log 8, that no other pin's
latch changes log 2. -/
def Obligations.TeardownRunLeavesTheOutputsLow : Prop :=
  ∀ s : State, s.params.wf = true → s.inputs = [] → s.resetLine = false →
    s.srcp.busy = true → s.srcp.cur = .teardown → s.srcp.upc = 0#7 →
    ∃ t, runFor 5 s = .next t ∧
      t.srcp = { s.srcp with
        busy := false, upc := 0#7, lstate := .tornDown, rawValid := false, ownedClk := false,
        ownedLatch := false, ownedData := false } ∧
      pinOut t.gpio s.params.pinClk = false ∧ pinOut t.gpio s.params.pinLatch = false ∧
      (∀ q, q ≠ s.params.pinClk → q ≠ s.params.pinLatch → pinOut t.gpio q = pinOut s.gpio q) ∧
      (∀ a, readByte t.gpio.fsel a = readByte s.gpio.fsel a)

/-- 42_poll.md R110, R117, R118: the 84 micro-operations of POLL leave in RAW the complements of the sixteen levels
drawn, sample i in bit i, set RAW_VALID, end with clock high and latch low, and touch no function-select register,
whatever the data pin's direction (log 23). R118 and R119 are the spec's own inferences; that 84 steps end the command
is log 8. -/
def Obligations.PollRunReturnsTheSample : Prop :=
  ∀ s : State, s.params.wf = true → s.inputs = [] → s.resetLine = false →
    s.srcp.busy = true → s.srcp.cur = .poll → s.srcp.upc = 0#7 → s.ctrl.attached = false →
    ∃ t v, runFor 84 s = .next t ∧
      (∀ i, i < 16 → v.getLsbD i = !nextLevel (envAtSample s.env i)) ∧
      t.srcp = { s.srcp with
        busy := false, upc := 0#7, shift := v, raw := v, rawValid := true, dcnt := 0 } ∧
      pinOut t.gpio s.params.pinClk = true ∧ pinOut t.gpio s.params.pinLatch = false ∧
      (∀ a, readByte t.gpio.fsel a = readByte s.gpio.fsel a)

/-- 42_poll.md R121, R122, the spec's own inference: with the reference controller attached and the lines idle, POLL
returns the buttons as they stand. Nothing is pressed or let go during the run; the second clause says that a press while
LATCH is low changes BTN alone, so that CREG and what POLL returns do not follow it. How the controller is carried is log
20, that 84 steps end the command log 8. -/
def Obligations.PollReturnsTheButtonsOfTheReferenceController : Prop :=
  (∀ s : State, s.params.wf = true → s.inputs = [] → s.resetLine = false →
    s.srcp.busy = true → s.srcp.cur = .poll → s.srcp.upc = 0#7 →
    s.ctrl.attached = true → pinFsel s.params s.gpio s.params.pinClk = 1#3 →
    pinFsel s.params s.gpio s.params.pinLatch = 1#3 → pinFsel s.params s.gpio s.params.pinData = 0#3 →
    pinOut s.gpio s.params.pinClk = true →
    ∃ t, runFor 84 s = .next t ∧ t.srcp.raw = s.ctrl.btn ∧ t.srcp.rawValid = true ∧ t.srcp.busy = false ∧
      t.ctrl.k = 16 ∧ t.ctrl.creg = s.ctrl.btn) ∧
  ∀ (s : State) (b : BitVec 16) (rest : List Input), s.inputs = .buttons b :: rest →
    pinFsel s.params s.gpio s.params.pinLatch = 1#3 → pinOut s.gpio s.params.pinLatch = false →
    step s = .next { s with inputs := rest, ctrl := { s.ctrl with btn := b } }

/-- 42_poll.md R123: the waits of one POLL total 210 to 414 µs, with at most 34 ticks of rounding above that, and POLL
ends in 84 steps; how a draw becomes ticks is log 12, that the last micro-operation's step ends the command log 8. -/
def Obligations.PollWaitsAreBounded : Prop :=
  ∀ s : State, s.inputs = [] → s.resetLine = false → s.srcp.busy = true → s.srcp.cur = .poll →
    s.srcp.upc = 0#7 →
    ∃ t, runFor 84 s = .next t ∧ t.srcp.busy = false ∧ t.srcp.upc = 0#7 ∧ s.waited ≤ t.waited ∧
      210 * s.params.fTick ≤ (t.waited - s.waited) * 1000000 ∧
      (t.waited - s.waited) * 1000000 ≤ 414 * s.params.fTick + 34 * 1000000

/-- 43_decode.md R133, R136 to R138: a decode whose sink is ready at every tick delivers its eleven words in order and
ends after eleven steps; under the fairness condition on SINK (70_reset_and_hazards.md R190) every decode delivers them
and ends, after some number of ticks. RAW, RAW_VALID and LSTATE stay. That a step is one tick is log 13, that the last
beat's step ends the command log 8. -/
def Obligations.DecodeRunDeliversElevenBeats : Prop :=
  ∀ s : State, s.inputs = [] → s.resetLine = false → s.srcp.busy = true →
    s.srcp.cur = .decode ∨ s.srcp.cur = .decodeImm → s.srcp.upc = 0#7 →
    ((∀ n, n < 11 → nextReady (times tookReady n s.env) = true) →
      runFor 11 s = .next { s with
        srcp := { s.srcp with busy := false, upc := 0#7 }
        env := times tookReady 11 s.env
        delivered := (decodeWords s.srcp.evtSrc).reverse ++ s.delivered }) ∧
    (SinkFair s →
      ∃ n, 11 ≤ n ∧ runFor n s = .next { s with
        srcp := { s.srcp with busy := false, upc := 0#7 }
        env := times tookReady n s.env
        delivered := (decodeWords s.srcp.evtSrc).reverse ++ s.delivered })

/-- 70_reset_and_hazards.md R190, 43_decode.md R136: for as many ticks as SINK is not ready, the decode stays where it
is, with the same beat on offer and BUSY = 1. That a step is one tick is log 13. -/
def Obligations.StalledSinkHoldsTheBeat : Prop :=
  ∀ (s : State) (n : Nat), s.inputs = [] → s.resetLine = false → s.srcp.busy = true →
    s.srcp.cur = .decode ∨ s.srcp.cur = .decodeImm → s.srcp.upc.toNat ≤ 10 →
    (∀ m, m < n → nextReady (times tookReady m s.env) = false) →
    runFor n s = .next { s with env := times tookReady n s.env } ∧
      evtValid s.srcp = true ∧ evtData s.srcp = evword s.srcp.evtSrc s.srcp.upc.toNat

/-! ### Invariants of every step -/

/-- The invariants hold at reset (10_state.md R46). What R46 does not give is the model's: that the GPIO register file,
in which nothing is written yet, has its canonical form is log 4, the parameters are log 1, and what makes them
well-formed is log 2. -/
def Obligations.InvariantsHoldAtReset : Prop :=
  LifecycleInv State.reset.srcp ∧ ResetHeldInv State.reset ∧ MemoryInv State.reset ∧ LinesInv State.reset ∧
    State.reset.params.wf = true

/-- Every step keeps SRCP's registers fitting together (10_state.md R35, 41_pin_config.md R104, 43_decode.md R137,
60_exceptions.md R152), through the release steps of a failed CONFIGURE too (R101; log 9). -/
def Obligations.EveryStepKeepsTheLifecycle : Prop :=
  ∀ s t : State, LifecycleInv s.srcp → step s = .next t → LifecycleInv t.srcp

/-- Every step keeps the function-select bytes and the latches in canonical form, whoever moves. The form is the model's
own choice (log 4): no rule of the spec speaks of it; what it holds is 10_state.md R42's FSEL and OUT. -/
def Obligations.EveryStepKeepsMemoryCanonical : Prop :=
  ∀ s t : State, MemoryInv s → step s = .next t → MemoryInv t

/-- Every step keeps SRCP at its reset values while RESET is held (70_reset_and_hazards.md R180). -/
def Obligations.EveryStepKeepsResetWhileHeld : Prop :=
  ∀ s t : State, ResetHeldInv s → step s = .next t → ResetHeldInv t

/-- Every step in which no other agent writes the GPIO register file keeps the lines as the lifecycle says: READY,
also while a decode runs in it, holds clock high and latch low, POLL draws its waveform, and the three pins keep their directions
(41_pin_config.md R104, 42_poll.md R119, both the spec's own inferences; other agents write between steps only, log 14). -/
def Obligations.EveryStepKeepsTheLines : Prop :=
  ∀ s t : State, s.params.wf = true → LifecycleInv s.srcp → LinesInv s → undisturbed s → step s = .next t →
    LinesInv t

/-- No step from a state whose registers fit together stops, whatever the outside does (10_state.md R35,
42_poll.md R124, 40_line_ops.md R98). That the machine goes on after a bad HOST access, which 60_exceptions.md R159
calls a fault of that access, is log 18. -/
def Obligations.NoStepStops : Prop :=
  ∀ s : State, LifecycleInv s.srcp → stepCompletes s

/-- No step changes the parameters (00_scope.md R9). -/
def Obligations.NoStepChangesTheParameters : Prop :=
  ∀ s t : State, step s = .next t → t.params = s.params

/-- 60_exceptions.md R152, 10_state.md R32: a step that changes LSTATE asserts RESET, or is the end of the command the
table names: CONFIGURE's last micro-operation, or the end of a CONFIGURE that failed; IDLE's last micro-operation in
CONFIGURED; TEARDOWN's last micro-operation, or HOST's write of TEARDOWN where no line is held. Which step is a command's
end is log 8 and log 9. -/
def Obligations.LstateChangesOnlyAsTheTableSays : Prop :=
  ∀ s t : State, LifecycleInv s.srcp → step s = .next t → t.srcp.lstate ≠ s.srcp.lstate →
    (t.srcp.lstate = .unconfigured ∧ ∃ rest, s.inputs = .resetAssert :: rest) ∨
    (t.srcp.lstate = .configured ∧ (s.srcp.lstate = .unconfigured ∨ s.srcp.lstate = .tornDown) ∧
      seqRunsAt s .configure 5) ∨
    (t.srcp.lstate = .failed ∧ (s.srcp.lstate = .unconfigured ∨ s.srcp.lstate = .tornDown) ∧
      seqsTurn s = true ∧ s.resetLine = false ∧ s.srcp.busy = true ∧ s.srcp.cur = .configure ∧
      t.srcp.busy = false ∧ (t.srcp.errResource = true ∨ t.srcp.errAlloc = true)) ∨
    (t.srcp.lstate = .ready ∧ s.srcp.lstate = .configured ∧ seqRunsAt s .idle 1) ∨
    (t.srcp.lstate = .tornDown ∧ (s.srcp.lstate = .configured ∨ s.srcp.lstate = .ready) ∧
      seqRunsAt s .teardown 4) ∨
    (t.srcp.lstate = .tornDown ∧ (s.srcp.lstate = .unconfigured ∨ s.srcp.lstate = .failed) ∧
      s.resetLine = false ∧ s.srcp.busy = false ∧
      ∃ rest, s.inputs = hostWord s.params 0x00 0x00000006#32 :: rest)

/-- 10_state.md R26: only POLL's completion, and reset, write RAW, all sixteen bits at once. That the completion lands in
the step of UPC 83 itself is log 8. -/
def Obligations.OnlyPollsCompletionWritesRaw : Prop :=
  ∀ s t : State, step s = .next t → t.srcp.raw ≠ s.srcp.raw →
    (∃ rest, s.inputs = .resetAssert :: rest ∧ t.srcp.raw = 0x0000#16) ∨
    (s.srcp.busy = true ∧ s.srcp.cur = .poll ∧ s.srcp.upc = 83#7 ∧ t.srcp.raw = s.srcp.shift ∧
      t.srcp.rawValid = true ∧ t.srcp.busy = false)

/-- 10_state.md R45, 60_exceptions.md R157: an error bit is cleared only by reset and by a HOST write to STATUS of a
word with that bit set. -/
def Obligations.ErrorBitsAreSticky : Prop :=
  ∀ (s t : State) (e : ErrCode), step s = .next t →
    (statusWord s.srcp).getLsbD (errBit e) = true → (statusWord t.srcp).getLsbD (errBit e) = false →
    (∃ rest, s.inputs = .resetAssert :: rest) ∨
    (∃ v rest, s.inputs = .access { write := true, bytes := 4, addr := s.params.blockBase + 0x04, data := v } :: rest ∧
      v.getLsbD (errBit e) = true)

/-- 60_exceptions.md R167, 40_line_ops.md R97: a step with BUSY = 0 or RESET held, and a step that is not SEQ's while a
command runs (HOST's access, RESET, the buttons), makes no GPIO access of SRCP's, no event beat and no draw. -/
def Obligations.NoAccessAndNoBeatBetweenCommands : Prop :=
  ∀ s t : State, s.srcp.busy = false ∨ s.resetLine = true ∨ seqsTurn s = false → undisturbed s → step s = .next t →
    t.gpio = s.gpio ∧ t.delivered = s.delivered ∧ t.env = s.env ∧ t.waited = s.waited
end

