-- ==== Sys2Proof/Laws/Bits.lean ====
section
/-! SUPPORT. What the bit-field and byte-order helpers do, bit by bit. -/

namespace Sys2Proof.Machine

/-- `setBit` writes bit i, where the vector has one, and no other. -/
theorem getLsbD_setBit {n : Nat} (v : BitVec n) (i j : Nat) (b : Bool) (h : j < n) :
    (setBit v i b).getLsbD j = if j = i then b else v.getLsbD j := by
  unfold setBit
  by_cases hij : j = i
  · subst hij
    cases b <;> simp [h]
  · cases b <;> simp [h, hij]

/-- The bits of 7: three of them. -/
theorem getLsbD_seven (k : Nat) (h : k < 32) : (0x7#32).getLsbD k = decide (k < 3) := by
  have : ∀ k : Fin 32, (0x7#32).getLsbD k.val = decide (k.val < 3) := by decide
  exact this ⟨k, h⟩

/-- A bit of the word whose 3-bit field was replaced. -/
theorem getLsbD_setField3 (v : Word) (pos j : Nat) (f : BitVec 3) (h : j < 32) :
    (setField3 v pos f).getLsbD j =
      if pos ≤ j ∧ j < pos + 3 then f.getLsbD (j - pos) else v.getLsbD j := by
  unfold setField3
  simp only [BitVec.getLsbD_or, BitVec.getLsbD_and, BitVec.getLsbD_not, BitVec.getLsbD_shiftLeft,
    BitVec.truncate_eq_setWidth, BitVec.getLsbD_setWidth, h, decide_true, Bool.true_and]
  by_cases h1 : j < pos
  · simp [h1, show ¬ pos ≤ j by omega]
  · rw [getLsbD_seven _ (by omega)]
    by_cases h2 : j < pos + 3
    · simp [h1, h2, show pos ≤ j by omega, show j - pos < 3 by omega, show j - pos < 32 by omega]
    · have h7 : f.getLsbD (j - pos) = false := BitVec.getLsbD_of_ge _ _ (by omega)
      simp [h1, h2, h7, show ¬ j - pos < 3 by omega]

/-- The replaced field reads back. -/
theorem extract_setField3_same (v : Word) (pos : Nat) (f : BitVec 3) (h : pos ≤ 29) :
    (setField3 v pos f).extractLsb' pos 3 = f := by
  apply BitVec.eq_of_getLsbD_eq
  intro i hi
  simp only [BitVec.getLsbD_extractLsb', hi, decide_true, Bool.true_and]
  rw [getLsbD_setField3 _ _ _ _ (by omega)]
  simp [hi]

/-- A field apart from the replaced one keeps its value. -/
theorem extract_setField3_apart (v : Word) (pos pos' : Nat) (f : BitVec 3) (h' : pos' ≤ 29)
    (hd : pos + 3 ≤ pos' ∨ pos' + 3 ≤ pos) :
    (setField3 v pos f).extractLsb' pos' 3 = v.extractLsb' pos' 3 := by
  apply BitVec.eq_of_getLsbD_eq
  intro i hi
  simp only [BitVec.getLsbD_extractLsb', hi, decide_true, Bool.true_and]
  rw [getLsbD_setField3 _ _ _ _ (by omega), if_neg (by omega)]

/-- A word is its four lanes. -/
theorem ofLanes_lane (v : Word) : ofLanes (lane v 0) (lane v 1) (lane v 2) (lane v 3) = v := by
  apply BitVec.eq_of_getLsbD_eq
  intro i hi
  unfold ofLanes lane
  simp only [BitVec.getLsbD_append, BitVec.getLsbD_extractLsb']
  by_cases h0 : i < 8
  · simp [h0]
  · by_cases h1 : i - 8 < 8
    · simp [h0, h1]; congr 1; omega
    · by_cases h2 : i - 8 - 8 < 8
      · simp [h0, h1, h2]; congr 1; omega
      · have h3 : i - 8 - 8 - 8 < 8 := by omega
        simp [h0, h1, h2, h3]; congr 1; omega

end Sys2Proof.Machine
end

