-- ==== Sys2Proof/Laws/Cells.lean ====
section
/-! SUPPORT. Read after write, and the canonical form, for cells and for the function-select memory. -/

namespace Sys2Proof.Machine

/-- Everything `cellPut` does to a later read. -/
theorem cellGet_cellPut {β : Type} (k j : Nat) (v : β) (m : List (Nat × β)) :
    cellGet k (cellPut j v m) = if k = j then some v else cellGet k m := by
  induction m with
  | nil => by_cases h : k = j <;> simp [cellPut, cellGet, h, eq_comm]
  | cons e rest ih =>
    obtain ⟨a, x⟩ := e
    unfold cellPut
    by_cases h1 : j < a
    · rw [if_pos h1]
      by_cases h : k = j <;> simp [cellGet, h, eq_comm]
    · rw [if_neg h1]
      by_cases h2 : j = a
      · rw [if_pos h2]; subst h2
        by_cases h : k = j
        · simp [cellGet, h]
        · simp [cellGet, h, Ne.symm h]
      · rw [if_neg h2]
        by_cases h : k = j
        · subst h; simp [cellGet, Ne.symm h2, ih]
        · simp [cellGet, ih, h]

/-- The first key of a canonical list is below the later ones: prepending a smaller key keeps the form. -/
theorem cellsRising_cons {β : Type} (k : Nat) (v : β) (m : List (Nat × β)) (hm : cellsRising m = true)
    (hk : ∀ e ∈ m.head?, k < e.1) : cellsRising ((k, v) :: m) = true := by
  cases m with
  | nil => rfl
  | cons e rest =>
    obtain ⟨a, x⟩ := e
    have : k < a := hk (a, x) (by simp)
    simp [cellsRising, this, hm]

/-- A canonical list without its first entry is canonical. -/
theorem cellsRising_tail {β : Type} (e : Nat × β) (m : List (Nat × β)) (h : cellsRising (e :: m) = true) :
    cellsRising m = true ∧ ∀ e' ∈ m.head?, e.1 < e'.1 := by
  cases m with
  | nil => simp [cellsRising]
  | cons e2 rest =>
    obtain ⟨a, x⟩ := e
    obtain ⟨b, y⟩ := e2
    simp only [cellsRising, Bool.and_eq_true, decide_eq_true_eq] at h
    exact ⟨h.2, by simpa using h.1⟩

/-- The first key of a list with one entry put in: the new key or the old first one. -/
theorem head_cellPut {β : Type} (k : Nat) (v : β) (m : List (Nat × β)) (a : Nat) (hk : a < k)
    (hm : ∀ e ∈ m.head?, a < e.1) : ∀ e ∈ (cellPut k v m).head?, a < e.1 := by
  cases m with
  | nil => simp [cellPut, hk]
  | cons e rest =>
    obtain ⟨b, x⟩ := e
    have hb : a < b := hm (b, x) (by simp)
    unfold cellPut
    split
    · simp [hk]
    · split
      · simp [hk]
      · simp [hb]

/-- `cellPut` keeps the canonical form. -/
theorem cellsRising_cellPut {β : Type} (k : Nat) (v : β) (m : List (Nat × β)) (hm : cellsRising m = true) :
    cellsRising (cellPut k v m) = true := by
  induction m with
  | nil => rfl
  | cons e rest ih =>
    obtain ⟨a, x⟩ := e
    have ht := cellsRising_tail _ _ hm
    unfold cellPut
    split
    · rename_i h
      exact cellsRising_cons _ _ _ hm (by simpa using h)
    · split
      · rename_i h
        subst h
        exact cellsRising_cons _ _ _ ht.1 ht.2
      · rename_i h1 h2
        exact cellsRising_cons _ _ _ (ih ht.1) (head_cellPut _ _ _ _ (by omega) ht.2)

/-- One byte after a word was written. -/
theorem readByte_writeWord (m : Memory) (a b : Nat) (v : Word) :
    readByte (writeWord m a v) b =
      if b = a + 3 then lane v 3 else if b = a + 2 then lane v 2 else if b = a + 1 then lane v 1
      else if b = a then lane v 0 else readByte m b := by
  unfold readByte writeWord
  simp only [cellGet_cellPut]
  split_ifs <;> simp

/-- A byte outside the word written keeps its value. -/
theorem readByte_writeWord_outside (m : Memory) (a b : Nat) (v : Word) (h : b < a ∨ a + 4 ≤ b) :
    readByte (writeWord m a v) b = readByte m b := by
  rw [readByte_writeWord, if_neg (by omega), if_neg (by omega), if_neg (by omega), if_neg (by omega)]

/-- The word written reads back. -/
theorem readWord_writeWord_same (m : Memory) (a : Nat) (v : Word) : readWord (writeWord m a v) a = v := by
  unfold readWord
  rw [readByte_writeWord, readByte_writeWord, readByte_writeWord, readByte_writeWord]
  simpa using ofLanes_lane v

/-- A word apart from the one written keeps its value. -/
theorem readWord_writeWord_apart (m : Memory) (a b : Nat) (v : Word) (h : b + 4 ≤ a ∨ a + 4 ≤ b) :
    readWord (writeWord m a v) b = readWord m b := by
  unfold readWord
  rw [readByte_writeWord_outside _ _ _ _ (by omega), readByte_writeWord_outside _ _ _ _ (by omega),
    readByte_writeWord_outside _ _ _ _ (by omega), readByte_writeWord_outside _ _ _ _ (by omega)]

/-- `writeWord` keeps the canonical form. -/
theorem wf_writeWord (m : Memory) (a : Nat) (v : Word) (h : m.wf = true) : (writeWord m a v).wf = true :=
  cellsRising_cellPut _ _ _ (cellsRising_cellPut _ _ _ (cellsRising_cellPut _ _ _ (cellsRising_cellPut _ _ _ h)))

/-- Everything `driveOut` does to a later read of a latch. -/
theorem cellGet_driveOut (qs : List Nat) (b : Bool) (out : List (Nat × Bool)) (q : Nat) :
    cellGet q (driveOut qs b out) = if q ∈ qs then some b else cellGet q out := by
  unfold driveOut
  induction qs generalizing out with
  | nil => simp
  | cons p ps ih =>
    simp only [List.foldl_cons, ih, cellGet_cellPut, List.mem_cons]
    by_cases h1 : q ∈ ps <;> by_cases h2 : q = p <;> simp [h1, h2]

/-- `driveOut` keeps the canonical form. -/
theorem cellsRising_driveOut (qs : List Nat) (b : Bool) (out : List (Nat × Bool)) (h : cellsRising out = true) :
    cellsRising (driveOut qs b out) = true := by
  unfold driveOut
  induction qs generalizing out with
  | nil => exact h
  | cons p ps ih => exact ih _ (cellsRising_cellPut _ _ _ h)

/-- Every write on the GPIO bus keeps the canonical form of the register file. -/
theorem wf_gpioWrite (ps : Params) (g : Gpio) (a : Nat) (v : Word) (h : g.wf = true) :
    (gpioWrite ps g a v).wf = true := by
  simp only [Gpio.wf, Bool.and_eq_true] at h ⊢
  unfold gpioWrite
  split
  · exact ⟨wf_writeWord _ _ _ h.1, h.2⟩
  · split
    · exact ⟨h.1, cellsRising_driveOut _ _ _ h.2⟩
    · split
      · exact ⟨h.1, cellsRising_driveOut _ _ _ h.2⟩
      · exact h

end Sys2Proof.Machine
end

