-- ==== Sys2Proof/Laws/Encoding.lean ====
section
/-! SUPPORT. The fields of an encoded command word, and what the decoder's answer says of the code it read. -/

namespace Sys2Proof

/-- A bit of a command word (30_encoding.md R70): OP below, IMM16 above, RSVD between them clear. -/
theorem getLsbD_commandWord (op : BitVec 4) (imm : BitVec 16) (k : Nat) :
    (commandWord op imm).getLsbD k =
      if k < 4 then op.getLsbD k else if k < 16 then false else imm.getLsbD (k - 16) := by
  have h : (commandWord op imm).getLsbD k = (imm ++ 0#12 ++ op : BitVec (16 + 12 + 4)).getLsbD k := rfl
  rw [h, BitVec.getLsbD_append, BitVec.getLsbD_append]
  by_cases h1 : k < 4
  · simp [h1]
  · by_cases h2 : k < 16
    · simp [h1, h2, show k - 4 < 12 by omega]
    · simp only [h1, h2, show ¬ k - 4 < 12 by omega, if_false, Nat.sub_sub]

/-- OP of a command word. -/
theorem extract_op_commandWord (op : BitVec 4) (imm : BitVec 16) :
    (commandWord op imm).extractLsb' 0 4 = op := by
  apply BitVec.eq_of_getLsbD_eq
  intro k hk
  simp only [BitVec.getLsbD_extractLsb', hk, decide_true, Bool.true_and, getLsbD_commandWord]
  simp [hk]

/-- RSVD of a command word. -/
theorem extract_rsvd_commandWord (op : BitVec 4) (imm : BitVec 16) :
    (commandWord op imm).extractLsb' 4 12 = 0#12 := by
  apply BitVec.eq_of_getLsbD_eq
  intro k hk
  simp only [BitVec.getLsbD_extractLsb', hk, decide_true, Bool.true_and, getLsbD_commandWord]
  simp [show ¬ 4 + k < 4 by omega, show 4 + k < 16 by omega]

/-- IMM16 of a command word. -/
theorem extract_imm_commandWord (op : BitVec 4) (imm : BitVec 16) :
    (commandWord op imm).extractLsb' 16 16 = imm := by
  apply BitVec.eq_of_getLsbD_eq
  intro k hk
  simp only [BitVec.getLsbD_extractLsb', hk, decide_true, Bool.true_and, getLsbD_commandWord]
  rw [if_neg (by omega), if_neg (by omega)]
  congr 1; omega

/-- A word whose reserved field is clear is the command word of its other two fields. -/
theorem commandWord_of_fields (w : Word) (h : w.extractLsb' 4 12 = 0#12) :
    commandWord (w.extractLsb' 0 4) (w.extractLsb' 16 16) = w := by
  apply BitVec.eq_of_getLsbD_eq
  intro k hk
  rw [getLsbD_commandWord]
  by_cases h1 : k < 4
  · simp [h1]
  · by_cases h2 : k < 16
    · have := congrArg (fun v => v.getLsbD (k - 4)) h
      simp only [BitVec.getLsbD_extractLsb', show k - 4 < 12 by omega, decide_true, Bool.true_and,
        show 4 + (k - 4) = k by omega] at this
      simp [h1, h2, this]
    · simp only [h1, h2, if_false, BitVec.getLsbD_extractLsb', show k - 16 < 16 by omega, decide_true, Bool.true_and]
      congr 1; omega

/-- A looked-up entry is an entry of the list. -/
theorem mem_of_lookup {α β : Type} [BEq α] [LawfulBEq α] (l : List (α × β)) (a : α) (b : β)
    (h : l.lookup a = some b) : (a, b) ∈ l := by
  induction l with
  | nil => cases h
  | cons e rest ih =>
    obtain ⟨k, v⟩ := e
    rw [List.lookup_cons] at h
    by_cases hk : a = k
    · subst hk; simp at h; simp [h]
    · rw [show (a == k) = false by simpa using hk] at h
      exact List.mem_cons_of_mem _ (ih h)

/-- What a micro-operation's byte stands for is in the table (30_encoding.md R77). -/
theorem mem_microOpTable {b : Byte} {i : Instr} (h : decodeMicroOp b = .ok i) : (b, i) ∈ microOpTable := by
  unfold decodeMicroOp at h
  split at h
  · rename_i hl; cases h; exact mem_of_lookup _ _ _ hl
  · cases h

end Sys2Proof
end

