-- ==== Sys2Proof/Laws/State.lean ====
section
/-! SUPPORT. What each named update of the state does to each field, so that no later proof unfolds a record
update. -/

namespace Sys2Proof.Machine

/-! ### seqNext -/

@[simp] theorem seqNext_srcp (s : State) : (seqNext s).srcp = advance s.srcp := rfl
@[simp] theorem seqNext_params (s : State) : (seqNext s).params = s.params := rfl
@[simp] theorem seqNext_gpio (s : State) : (seqNext s).gpio = s.gpio := rfl
@[simp] theorem seqNext_ctrl (s : State) : (seqNext s).ctrl = s.ctrl := rfl
@[simp] theorem seqNext_env (s : State) : (seqNext s).env = s.env := rfl
@[simp] theorem seqNext_resetLine (s : State) : (seqNext s).resetLine = s.resetLine := rfl
@[simp] theorem seqNext_inputs (s : State) : (seqNext s).inputs = s.inputs := rfl
@[simp] theorem seqNext_responses (s : State) : (seqNext s).responses = s.responses := rfl
@[simp] theorem seqNext_delivered (s : State) : (seqNext s).delivered = s.delivered := rfl
@[simp] theorem seqNext_waited (s : State) : (seqNext s).waited = s.waited := rfl

/-! ### raiseErr -/

@[simp] theorem raiseErr_params (e : ErrCode) (w : Word) (s : State) : (raiseErr e w s).params = s.params := rfl
@[simp] theorem raiseErr_gpio (e : ErrCode) (w : Word) (s : State) : (raiseErr e w s).gpio = s.gpio := rfl
@[simp] theorem raiseErr_ctrl (e : ErrCode) (w : Word) (s : State) : (raiseErr e w s).ctrl = s.ctrl := rfl
@[simp] theorem raiseErr_env (e : ErrCode) (w : Word) (s : State) : (raiseErr e w s).env = s.env := rfl
@[simp] theorem raiseErr_resetLine (e : ErrCode) (w : Word) (s : State) : (raiseErr e w s).resetLine = s.resetLine := rfl
@[simp] theorem raiseErr_inputs (e : ErrCode) (w : Word) (s : State) : (raiseErr e w s).inputs = s.inputs := rfl
@[simp] theorem raiseErr_responses (e : ErrCode) (w : Word) (s : State) : (raiseErr e w s).responses = s.responses := rfl
@[simp] theorem raiseErr_delivered (e : ErrCode) (w : Word) (s : State) : (raiseErr e w s).delivered = s.delivered := rfl
@[simp] theorem raiseErr_waited (e : ErrCode) (w : Word) (s : State) : (raiseErr e w s).waited = s.waited := rfl

/-! ### clearErrors -/

@[simp] theorem clearErrors_srcp (v : Word) (s : State) : (clearErrors v s).srcp = clearErrs v s.srcp := rfl
@[simp] theorem clearErrors_params (v : Word) (s : State) : (clearErrors v s).params = s.params := rfl
@[simp] theorem clearErrors_gpio (v : Word) (s : State) : (clearErrors v s).gpio = s.gpio := rfl
@[simp] theorem clearErrors_ctrl (v : Word) (s : State) : (clearErrors v s).ctrl = s.ctrl := rfl
@[simp] theorem clearErrors_env (v : Word) (s : State) : (clearErrors v s).env = s.env := rfl
@[simp] theorem clearErrors_resetLine (v : Word) (s : State) : (clearErrors v s).resetLine = s.resetLine := rfl
@[simp] theorem clearErrors_inputs (v : Word) (s : State) : (clearErrors v s).inputs = s.inputs := rfl
@[simp] theorem clearErrors_responses (v : Word) (s : State) : (clearErrors v s).responses = s.responses := rfl
@[simp] theorem clearErrors_delivered (v : Word) (s : State) : (clearErrors v s).delivered = s.delivered := rfl
@[simp] theorem clearErrors_waited (v : Word) (s : State) : (clearErrors v s).waited = s.waited := rfl

/-! ### memWrite -/

@[simp] theorem memWrite_srcp (s : State) (a : Nat) (v : Word) : (memWrite s a v).srcp = s.srcp := rfl
@[simp] theorem memWrite_params (s : State) (a : Nat) (v : Word) : (memWrite s a v).params = s.params := rfl
@[simp] theorem memWrite_gpio (s : State) (a : Nat) (v : Word) : (memWrite s a v).gpio = gpioWrite s.params s.gpio a v := rfl
@[simp] theorem memWrite_env (s : State) (a : Nat) (v : Word) : (memWrite s a v).env = s.env := rfl
@[simp] theorem memWrite_resetLine (s : State) (a : Nat) (v : Word) : (memWrite s a v).resetLine = s.resetLine := rfl
@[simp] theorem memWrite_inputs (s : State) (a : Nat) (v : Word) : (memWrite s a v).inputs = s.inputs := rfl
@[simp] theorem memWrite_responses (s : State) (a : Nat) (v : Word) : (memWrite s a v).responses = s.responses := rfl
@[simp] theorem memWrite_delivered (s : State) (a : Nat) (v : Word) : (memWrite s a v).delivered = s.delivered := rfl
@[simp] theorem memWrite_waited (s : State) (a : Nat) (v : Word) : (memWrite s a v).waited = s.waited := rfl

/-! ### respond -/

@[simp] theorem respond_srcp (a : Response) (s : State) : (respond a s).srcp = s.srcp := rfl
@[simp] theorem respond_params (a : Response) (s : State) : (respond a s).params = s.params := rfl
@[simp] theorem respond_gpio (a : Response) (s : State) : (respond a s).gpio = s.gpio := rfl
@[simp] theorem respond_ctrl (a : Response) (s : State) : (respond a s).ctrl = s.ctrl := rfl
@[simp] theorem respond_env (a : Response) (s : State) : (respond a s).env = s.env := rfl
@[simp] theorem respond_resetLine (a : Response) (s : State) : (respond a s).resetLine = s.resetLine := rfl
@[simp] theorem respond_inputs (a : Response) (s : State) : (respond a s).inputs = s.inputs := rfl
@[simp] theorem respond_responses (a : Response) (s : State) : (respond a s).responses = a :: s.responses := rfl
@[simp] theorem respond_delivered (a : Response) (s : State) : (respond a s).delivered = s.delivered := rfl
@[simp] theorem respond_waited (a : Response) (s : State) : (respond a s).waited = s.waited := rfl

/-! ### deliver -/

@[simp] theorem deliver_srcp (s : State) : (deliver s).srcp = s.srcp := rfl
@[simp] theorem deliver_params (s : State) : (deliver s).params = s.params := rfl
@[simp] theorem deliver_gpio (s : State) : (deliver s).gpio = s.gpio := rfl
@[simp] theorem deliver_ctrl (s : State) : (deliver s).ctrl = s.ctrl := rfl
@[simp] theorem deliver_env (s : State) : (deliver s).env = s.env := rfl
@[simp] theorem deliver_resetLine (s : State) : (deliver s).resetLine = s.resetLine := rfl
@[simp] theorem deliver_inputs (s : State) : (deliver s).inputs = s.inputs := rfl
@[simp] theorem deliver_responses (s : State) : (deliver s).responses = s.responses := rfl
@[simp] theorem deliver_delivered (s : State) : (deliver s).delivered = evword s.srcp.evtSrc s.srcp.upc.toNat :: s.delivered := rfl
@[simp] theorem deliver_waited (s : State) : (deliver s).waited = s.waited := rfl

/-! ### assertReset -/

@[simp] theorem assertReset_srcp (s : State) : (assertReset s).srcp = Srcp.reset := rfl
@[simp] theorem assertReset_params (s : State) : (assertReset s).params = s.params := rfl
@[simp] theorem assertReset_gpio (s : State) : (assertReset s).gpio = s.gpio := rfl
@[simp] theorem assertReset_ctrl (s : State) : (assertReset s).ctrl = s.ctrl := rfl
@[simp] theorem assertReset_env (s : State) : (assertReset s).env = s.env := rfl
@[simp] theorem assertReset_resetLine (s : State) : (assertReset s).resetLine = true := rfl
@[simp] theorem assertReset_inputs (s : State) : (assertReset s).inputs = s.inputs := rfl
@[simp] theorem assertReset_responses (s : State) : (assertReset s).responses = s.responses := rfl
@[simp] theorem assertReset_delivered (s : State) : (assertReset s).delivered = s.delivered := rfl
@[simp] theorem assertReset_waited (s : State) : (assertReset s).waited = s.waited := rfl

/-! ### pressButtons -/

@[simp] theorem pressButtons_srcp (b : BitVec 16) (s : State) : (pressButtons b s).srcp = s.srcp := rfl
@[simp] theorem pressButtons_params (b : BitVec 16) (s : State) : (pressButtons b s).params = s.params := rfl
@[simp] theorem pressButtons_gpio (b : BitVec 16) (s : State) : (pressButtons b s).gpio = s.gpio := rfl
@[simp] theorem pressButtons_env (b : BitVec 16) (s : State) : (pressButtons b s).env = s.env := rfl
@[simp] theorem pressButtons_resetLine (b : BitVec 16) (s : State) : (pressButtons b s).resetLine = s.resetLine := rfl
@[simp] theorem pressButtons_inputs (b : BitVec 16) (s : State) : (pressButtons b s).inputs = s.inputs := rfl
@[simp] theorem pressButtons_responses (b : BitVec 16) (s : State) : (pressButtons b s).responses = s.responses := rfl
@[simp] theorem pressButtons_delivered (b : BitVec 16) (s : State) : (pressButtons b s).delivered = s.delivered := rfl
@[simp] theorem pressButtons_waited (b : BitVec 16) (s : State) : (pressButtons b s).waited = s.waited := rfl

/-! ### loadWait -/

@[simp] theorem loadWait_srcp (c : DelayClass) (s : State) : (loadWait c s).srcp = { s.srcp with dcnt := waitTicks s.params c (nextWait s.env) } := rfl
@[simp] theorem loadWait_params (c : DelayClass) (s : State) : (loadWait c s).params = s.params := rfl
@[simp] theorem loadWait_gpio (c : DelayClass) (s : State) : (loadWait c s).gpio = s.gpio := rfl
@[simp] theorem loadWait_ctrl (c : DelayClass) (s : State) : (loadWait c s).ctrl = s.ctrl := rfl
@[simp] theorem loadWait_env (c : DelayClass) (s : State) : (loadWait c s).env = tookWait s.env := rfl
@[simp] theorem loadWait_resetLine (c : DelayClass) (s : State) : (loadWait c s).resetLine = s.resetLine := rfl
@[simp] theorem loadWait_inputs (c : DelayClass) (s : State) : (loadWait c s).inputs = s.inputs := rfl
@[simp] theorem loadWait_responses (c : DelayClass) (s : State) : (loadWait c s).responses = s.responses := rfl
@[simp] theorem loadWait_delivered (c : DelayClass) (s : State) : (loadWait c s).delivered = s.delivered := rfl
@[simp] theorem loadWait_waited (c : DelayClass) (s : State) : (loadWait c s).waited = s.waited := rfl

/-! ### countDown -/

@[simp] theorem countDown_srcp (s : State) : (countDown s).srcp = { s.srcp with dcnt := 0 } := rfl
@[simp] theorem countDown_params (s : State) : (countDown s).params = s.params := rfl
@[simp] theorem countDown_gpio (s : State) : (countDown s).gpio = s.gpio := rfl
@[simp] theorem countDown_ctrl (s : State) : (countDown s).ctrl = s.ctrl := rfl
@[simp] theorem countDown_env (s : State) : (countDown s).env = s.env := rfl
@[simp] theorem countDown_resetLine (s : State) : (countDown s).resetLine = s.resetLine := rfl
@[simp] theorem countDown_inputs (s : State) : (countDown s).inputs = s.inputs := rfl
@[simp] theorem countDown_responses (s : State) : (countDown s).responses = s.responses := rfl
@[simp] theorem countDown_delivered (s : State) : (countDown s).delivered = s.delivered := rfl
@[simp] theorem countDown_waited (s : State) : (countDown s).waited = s.waited + s.srcp.dcnt := rfl

/-! ### askSink -/

@[simp] theorem askSink_srcp (s : State) : (askSink s).srcp = s.srcp := rfl
@[simp] theorem askSink_params (s : State) : (askSink s).params = s.params := rfl
@[simp] theorem askSink_gpio (s : State) : (askSink s).gpio = s.gpio := rfl
@[simp] theorem askSink_ctrl (s : State) : (askSink s).ctrl = s.ctrl := rfl
@[simp] theorem askSink_resetLine (s : State) : (askSink s).resetLine = s.resetLine := rfl
@[simp] theorem askSink_inputs (s : State) : (askSink s).inputs = s.inputs := rfl
@[simp] theorem askSink_responses (s : State) : (askSink s).responses = s.responses := rfl
@[simp] theorem askSink_delivered (s : State) : (askSink s).delivered = s.delivered := rfl
@[simp] theorem askSink_waited (s : State) : (askSink s).waited = s.waited := rfl
@[simp] theorem askSink_env (s : State) :
    (askSink s).env = if sinkDue s.srcp then tookSinkOk s.env else s.env := rfl

/-! ### failConfigure -/

@[simp] theorem failConfigure_params (e : ErrCode) (s : State) : (failConfigure e s).params = s.params := rfl
@[simp] theorem failConfigure_gpio (e : ErrCode) (s : State) : (failConfigure e s).gpio = s.gpio := rfl
@[simp] theorem failConfigure_ctrl (e : ErrCode) (s : State) : (failConfigure e s).ctrl = s.ctrl := rfl
@[simp] theorem failConfigure_env (e : ErrCode) (s : State) : (failConfigure e s).env = s.env := rfl
@[simp] theorem failConfigure_resetLine (e : ErrCode) (s : State) : (failConfigure e s).resetLine = s.resetLine := rfl
@[simp] theorem failConfigure_inputs (e : ErrCode) (s : State) : (failConfigure e s).inputs = s.inputs := rfl
@[simp] theorem failConfigure_responses (e : ErrCode) (s : State) : (failConfigure e s).responses = s.responses := rfl
@[simp] theorem failConfigure_delivered (e : ErrCode) (s : State) : (failConfigure e s).delivered = s.delivered := rfl
@[simp] theorem failConfigure_waited (e : ErrCode) (s : State) : (failConfigure e s).waited = s.waited := rfl

/-! ### beginAt -/

@[simp] theorem beginAt_lstate (n : BitVec 7) (r : Srcp) : (beginAt n r).lstate = r.lstate := rfl
@[simp] theorem beginAt_busy (n : BitVec 7) (r : Srcp) : (beginAt n r).busy = true := rfl
@[simp] theorem beginAt_cur (n : BitVec 7) (r : Srcp) : (beginAt n r).cur = r.cur := rfl
@[simp] theorem beginAt_upc (n : BitVec 7) (r : Srcp) : (beginAt n r).upc = n := rfl
@[simp] theorem beginAt_shift (n : BitVec 7) (r : Srcp) : (beginAt n r).shift = r.shift := rfl
@[simp] theorem beginAt_evtSrc (n : BitVec 7) (r : Srcp) : (beginAt n r).evtSrc = r.evtSrc := rfl
@[simp] theorem beginAt_dcnt (n : BitVec 7) (r : Srcp) : (beginAt n r).dcnt = r.dcnt := rfl
@[simp] theorem beginAt_raw (n : BitVec 7) (r : Srcp) : (beginAt n r).raw = r.raw := rfl
@[simp] theorem beginAt_rawValid (n : BitVec 7) (r : Srcp) : (beginAt n r).rawValid = r.rawValid := rfl
@[simp] theorem beginAt_errResource (n : BitVec 7) (r : Srcp) : (beginAt n r).errResource = r.errResource := rfl
@[simp] theorem beginAt_errAlloc (n : BitVec 7) (r : Srcp) : (beginAt n r).errAlloc = r.errAlloc := rfl
@[simp] theorem beginAt_errIllegal (n : BitVec 7) (r : Srcp) : (beginAt n r).errIllegal = r.errIllegal := rfl
@[simp] theorem beginAt_errBusy (n : BitVec 7) (r : Srcp) : (beginAt n r).errBusy = r.errBusy := rfl
@[simp] theorem beginAt_errState (n : BitVec 7) (r : Srcp) : (beginAt n r).errState = r.errState := rfl
@[simp] theorem beginAt_errcmd (n : BitVec 7) (r : Srcp) : (beginAt n r).errcmd = r.errcmd := rfl
@[simp] theorem beginAt_ownedClk (n : BitVec 7) (r : Srcp) : (beginAt n r).ownedClk = r.ownedClk := rfl
@[simp] theorem beginAt_ownedLatch (n : BitVec 7) (r : Srcp) : (beginAt n r).ownedLatch = r.ownedLatch := rfl
@[simp] theorem beginAt_ownedData (n : BitVec 7) (r : Srcp) : (beginAt n r).ownedData = r.ownedData := rfl

/-! ### tornDown -/

@[simp] theorem tornDown_lstate (r : Srcp) : (tornDown r).lstate = .tornDown := rfl
@[simp] theorem tornDown_busy (r : Srcp) : (tornDown r).busy = r.busy := rfl
@[simp] theorem tornDown_cur (r : Srcp) : (tornDown r).cur = r.cur := rfl
@[simp] theorem tornDown_upc (r : Srcp) : (tornDown r).upc = r.upc := rfl
@[simp] theorem tornDown_shift (r : Srcp) : (tornDown r).shift = r.shift := rfl
@[simp] theorem tornDown_evtSrc (r : Srcp) : (tornDown r).evtSrc = r.evtSrc := rfl
@[simp] theorem tornDown_dcnt (r : Srcp) : (tornDown r).dcnt = r.dcnt := rfl
@[simp] theorem tornDown_raw (r : Srcp) : (tornDown r).raw = r.raw := rfl
@[simp] theorem tornDown_rawValid (r : Srcp) : (tornDown r).rawValid = false := rfl
@[simp] theorem tornDown_errResource (r : Srcp) : (tornDown r).errResource = r.errResource := rfl
@[simp] theorem tornDown_errAlloc (r : Srcp) : (tornDown r).errAlloc = r.errAlloc := rfl
@[simp] theorem tornDown_errIllegal (r : Srcp) : (tornDown r).errIllegal = r.errIllegal := rfl
@[simp] theorem tornDown_errBusy (r : Srcp) : (tornDown r).errBusy = r.errBusy := rfl
@[simp] theorem tornDown_errState (r : Srcp) : (tornDown r).errState = r.errState := rfl
@[simp] theorem tornDown_errcmd (r : Srcp) : (tornDown r).errcmd = r.errcmd := rfl
@[simp] theorem tornDown_ownedClk (r : Srcp) : (tornDown r).ownedClk = r.ownedClk := rfl
@[simp] theorem tornDown_ownedLatch (r : Srcp) : (tornDown r).ownedLatch = r.ownedLatch := rfl
@[simp] theorem tornDown_ownedData (r : Srcp) : (tornDown r).ownedData = r.ownedData := rfl

/-! ### clearErrs -/

@[simp] theorem clearErrs_lstate (v : Word) (r : Srcp) : (clearErrs v r).lstate = r.lstate := rfl
@[simp] theorem clearErrs_busy (v : Word) (r : Srcp) : (clearErrs v r).busy = r.busy := rfl
@[simp] theorem clearErrs_cur (v : Word) (r : Srcp) : (clearErrs v r).cur = r.cur := rfl
@[simp] theorem clearErrs_upc (v : Word) (r : Srcp) : (clearErrs v r).upc = r.upc := rfl
@[simp] theorem clearErrs_shift (v : Word) (r : Srcp) : (clearErrs v r).shift = r.shift := rfl
@[simp] theorem clearErrs_evtSrc (v : Word) (r : Srcp) : (clearErrs v r).evtSrc = r.evtSrc := rfl
@[simp] theorem clearErrs_dcnt (v : Word) (r : Srcp) : (clearErrs v r).dcnt = r.dcnt := rfl
@[simp] theorem clearErrs_raw (v : Word) (r : Srcp) : (clearErrs v r).raw = r.raw := rfl
@[simp] theorem clearErrs_rawValid (v : Word) (r : Srcp) : (clearErrs v r).rawValid = r.rawValid := rfl
@[simp] theorem clearErrs_errResource (v : Word) (r : Srcp) : (clearErrs v r).errResource = (r.errResource && !v.getLsbD 8) := rfl
@[simp] theorem clearErrs_errAlloc (v : Word) (r : Srcp) : (clearErrs v r).errAlloc = (r.errAlloc && !v.getLsbD 9) := rfl
@[simp] theorem clearErrs_errIllegal (v : Word) (r : Srcp) : (clearErrs v r).errIllegal = (r.errIllegal && !v.getLsbD 10) := rfl
@[simp] theorem clearErrs_errBusy (v : Word) (r : Srcp) : (clearErrs v r).errBusy = (r.errBusy && !v.getLsbD 11) := rfl
@[simp] theorem clearErrs_errState (v : Word) (r : Srcp) : (clearErrs v r).errState = (r.errState && !v.getLsbD 12) := rfl
@[simp] theorem clearErrs_errcmd (v : Word) (r : Srcp) : (clearErrs v r).errcmd = r.errcmd := rfl
@[simp] theorem clearErrs_ownedClk (v : Word) (r : Srcp) : (clearErrs v r).ownedClk = r.ownedClk := rfl
@[simp] theorem clearErrs_ownedLatch (v : Word) (r : Srcp) : (clearErrs v r).ownedLatch = r.ownedLatch := rfl
@[simp] theorem clearErrs_ownedData (v : Word) (r : Srcp) : (clearErrs v r).ownedData = r.ownedData := rfl

/-! ### The draws -/

@[simp] theorem tookGrant_asked (e : Env) : (tookGrant e).asked = e.asked + 1 := rfl
@[simp] theorem tookGrant_grants (e : Env) : (tookGrant e).grants = e.grants.tail := rfl
@[simp] theorem tookGrant_sinkOks (e : Env) : (tookGrant e).sinkOks = e.sinkOks := rfl
@[simp] theorem tookGrant_levels (e : Env) : (tookGrant e).levels = e.levels := rfl
@[simp] theorem tookGrant_waits (e : Env) : (tookGrant e).waits = e.waits := rfl
@[simp] theorem tookGrant_readys (e : Env) : (tookGrant e).readys = e.readys := rfl
@[simp] theorem tookSinkOk_asked (e : Env) : (tookSinkOk e).asked = e.asked + 1 := rfl
@[simp] theorem tookSinkOk_grants (e : Env) : (tookSinkOk e).grants = e.grants := rfl
@[simp] theorem tookSinkOk_sinkOks (e : Env) : (tookSinkOk e).sinkOks = e.sinkOks.tail := rfl
@[simp] theorem tookSinkOk_levels (e : Env) : (tookSinkOk e).levels = e.levels := rfl
@[simp] theorem tookSinkOk_waits (e : Env) : (tookSinkOk e).waits = e.waits := rfl
@[simp] theorem tookSinkOk_readys (e : Env) : (tookSinkOk e).readys = e.readys := rfl
@[simp] theorem tookLevel_asked (e : Env) : (tookLevel e).asked = e.asked + 1 := rfl
@[simp] theorem tookLevel_grants (e : Env) : (tookLevel e).grants = e.grants := rfl
@[simp] theorem tookLevel_sinkOks (e : Env) : (tookLevel e).sinkOks = e.sinkOks := rfl
@[simp] theorem tookLevel_levels (e : Env) : (tookLevel e).levels = e.levels.tail := rfl
@[simp] theorem tookLevel_waits (e : Env) : (tookLevel e).waits = e.waits := rfl
@[simp] theorem tookLevel_readys (e : Env) : (tookLevel e).readys = e.readys := rfl
@[simp] theorem tookWait_asked (e : Env) : (tookWait e).asked = e.asked + 1 := rfl
@[simp] theorem tookWait_grants (e : Env) : (tookWait e).grants = e.grants := rfl
@[simp] theorem tookWait_sinkOks (e : Env) : (tookWait e).sinkOks = e.sinkOks := rfl
@[simp] theorem tookWait_levels (e : Env) : (tookWait e).levels = e.levels := rfl
@[simp] theorem tookWait_waits (e : Env) : (tookWait e).waits = e.waits.tail := rfl
@[simp] theorem tookWait_readys (e : Env) : (tookWait e).readys = e.readys := rfl
@[simp] theorem tookReady_asked (e : Env) : (tookReady e).asked = e.asked + 1 := rfl
@[simp] theorem tookReady_grants (e : Env) : (tookReady e).grants = e.grants := rfl
@[simp] theorem tookReady_sinkOks (e : Env) : (tookReady e).sinkOks = e.sinkOks := rfl
@[simp] theorem tookReady_levels (e : Env) : (tookReady e).levels = e.levels := rfl
@[simp] theorem tookReady_waits (e : Env) : (tookReady e).waits = e.waits := rfl
@[simp] theorem tookReady_readys (e : Env) : (tookReady e).readys = e.readys.tail := rfl

end Sys2Proof.Machine
end

