-- ==== Sys2Proof/Laws/Gpio.lean ====
section
/-! SUPPORT. What well-formed parameters give (00_scope.md R9), and what a write or read on the GPIO bus does under
them (20_memory.md R60 to R62). -/

namespace Sys2Proof.Machine

/-! ### Well-formed parameters -/

/-- A relation checked on all pairs of a list holds of two of its places, the earlier first. -/
theorem pairwiseAll_get (r : PinMap → PinMap → Bool) (l : List PinMap) (h : pairwiseAll r l = true) (i j : Nat)
    (hij : i < j) (hj : j < l.length) : r (l[i]'(by omega)) (l[j]) = true := by
  induction l generalizing i j with
  | nil => simp at hj
  | cons m ms ih =>
    simp only [pairwiseAll, Bool.and_eq_true, List.all_eq_true] at h
    cases j with
    | zero => omega
    | succ j =>
      have hj' : j < ms.length := by simpa using hj
      cases i with
      | zero => simpa using h.1 ms[j] (List.getElem_mem hj')
      | succ i => simpa using ih h.2 i j (by omega) hj'

/-- The named parts of `Params.wf` that proofs use. -/
structure ParamsWf (ps : Params) : Prop where
  clk_ne_latch : ps.pinClk ≠ ps.pinLatch
  clk_ne_data : ps.pinClk ≠ ps.pinData
  latch_ne_data : ps.pinLatch ≠ ps.pinData
  clk_lt : ps.pinClk < ps.pins.length
  latch_lt : ps.pinLatch < ps.pins.length
  data_lt : ps.pinData < ps.pins.length
  one_mhz : 1000000 ≤ ps.fTick
  pin_wf : ∀ p, p < ps.pins.length → (pinMap ps p).wf = true
  apart : ∀ p q, p < q → q < ps.pins.length → (pinMap ps p).apart (pinMap ps q) = true
  kinds : ∀ p q, p < ps.pins.length → q < ps.pins.length → (pinMap ps p).kindsApart (pinMap ps q) = true

/-- A pin's positions are its entry of the list. -/
theorem pinMap_eq_getElem (ps : Params) (p : Nat) (h : p < ps.pins.length) : pinMap ps p = ps.pins[p] := by
  simp [pinMap, h]

/-- `Params.wf` unfolded once. -/
theorem paramsWf_of_wf {ps : Params} (h : ps.wf = true) : ParamsWf ps := by
  unfold Params.wf at h
  simp only [Bool.and_eq_true, decide_eq_true_eq, bne_iff_ne, List.all_eq_true] at h
  obtain ⟨⟨⟨⟨⟨⟨⟨⟨⟨⟨⟨⟨⟨-, -⟩, h1⟩, h2⟩, h3⟩, h4⟩, h5⟩, h6⟩, -⟩, h7⟩, -⟩, h8⟩, h9⟩, h10⟩ := h
  refine ⟨h1, h2, h3, h4, h5, h6, h7, ?_, ?_, ?_⟩
  · intro p hp
    rw [pinMap_eq_getElem _ _ hp]; exact h8 _ (List.getElem_mem hp)
  · intro p q hpq hq
    rw [pinMap_eq_getElem _ _ hq, pinMap_eq_getElem _ _ (by omega)]
    exact pairwiseAll_get _ _ h9 p q hpq hq
  · intro p q hp hq
    rw [pinMap_eq_getElem _ _ hq, pinMap_eq_getElem _ _ hp]
    exact h10 _ (List.getElem_mem hp) _ (List.getElem_mem hq)

/-- The pin of a line is a pin. -/
theorem linePin_lt {ps : Params} (h : ParamsWf ps) (l : Line) : linePin ps l < ps.pins.length := by
  cases l
  · exact h.clk_lt
  · exact h.latch_lt
  · exact h.data_lt

/-- A pin's field lies in its register. -/
theorem fpos_le {ps : Params} (h : ParamsWf ps) {p : Nat} (hp : p < ps.pins.length) : (pinMap ps p).fpos ≤ 29 := by
  have := h.pin_wf p hp
  simp only [PinMap.wf, Bool.and_eq_true, decide_eq_true_eq] at this
  omega

/-- A pin's bit lies in its register. -/
theorem sbit_le {ps : Params} (h : ParamsWf ps) {p : Nat} (hp : p < ps.pins.length) : (pinMap ps p).sbit ≤ 31 := by
  have := h.pin_wf p hp
  simp only [PinMap.wf, Bool.and_eq_true, decide_eq_true_eq] at this
  omega

/-- Two function-select registers are the same register or lie four bytes apart. -/
theorem fselAddr_apart {ps : Params} (h : ParamsWf ps) {p q : Nat} (hp : p < ps.pins.length)
    (hq : q < ps.pins.length) :
    fselAddr ps p = fselAddr ps q ∨ fselAddr ps p + 4 ≤ fselAddr ps q ∨ fselAddr ps q + 4 ≤ fselAddr ps p := by
  have h1 := h.pin_wf p hp
  have h2 := h.pin_wf q hq
  simp only [PinMap.wf, Bool.and_eq_true, decide_eq_true_eq, beq_iff_eq] at h1 h2
  unfold fselAddr
  omega

/-- Two pins of one function-select register have fields apart. -/
theorem fields_apart {ps : Params} (h : ParamsWf ps) {p q : Nat} (hp : p < ps.pins.length)
    (hq : q < ps.pins.length) (hpq : p ≠ q) (ha : fselAddr ps p = fselAddr ps q) :
    (pinMap ps p).fpos + 3 ≤ (pinMap ps q).fpos ∨ (pinMap ps q).fpos + 3 ≤ (pinMap ps p).fpos := by
  unfold fselAddr at ha
  rcases Nat.lt_or_gt_of_ne hpq with hlt | hlt
  · have := h.apart p q hlt hq
    simp only [PinMap.apart, Bool.and_eq_true, Bool.or_eq_true, decide_eq_true_eq, bne_iff_ne] at this
    omega
  · have := h.apart q p hlt hp
    simp only [PinMap.apart, Bool.and_eq_true, Bool.or_eq_true, decide_eq_true_eq, bne_iff_ne] at this
    omega

/-- Two pins that share a set register and a bit are one pin. -/
theorem setBit_unique {ps : Params} (h : ParamsWf ps) {p q : Nat} (hp : p < ps.pins.length)
    (hq : q < ps.pins.length) (ha : setAddr ps p = setAddr ps q) (hb : (pinMap ps p).sbit = (pinMap ps q).sbit) :
    p = q := by
  unfold setAddr at ha
  by_contra hpq
  rcases Nat.lt_or_gt_of_ne hpq with hlt | hlt
  · have := h.apart p q hlt hq
    simp only [PinMap.apart, Bool.and_eq_true, Bool.or_eq_true, decide_eq_true_eq, bne_iff_ne] at this
    omega
  · have := h.apart q p hlt hp
    simp only [PinMap.apart, Bool.and_eq_true, Bool.or_eq_true, decide_eq_true_eq, bne_iff_ne] at this
    omega

/-- Two pins that share a clear register and a bit are one pin. -/
theorem clrBit_unique {ps : Params} (h : ParamsWf ps) {p q : Nat} (hp : p < ps.pins.length)
    (hq : q < ps.pins.length) (ha : clrAddr ps p = clrAddr ps q) (hb : (pinMap ps p).sbit = (pinMap ps q).sbit) :
    p = q := by
  unfold clrAddr at ha
  by_contra hpq
  rcases Nat.lt_or_gt_of_ne hpq with hlt | hlt
  · have := h.apart p q hlt hq
    simp only [PinMap.apart, Bool.and_eq_true, Bool.or_eq_true, decide_eq_true_eq, bne_iff_ne] at this
    omega
  · have := h.apart q p hlt hp
    simp only [PinMap.apart, Bool.and_eq_true, Bool.or_eq_true, decide_eq_true_eq, bne_iff_ne] at this
    omega

/-- Two pins that share a level register and a bit are one pin. -/
theorem levBit_unique {ps : Params} (h : ParamsWf ps) {p q : Nat} (hp : p < ps.pins.length)
    (hq : q < ps.pins.length) (ha : levAddr ps p = levAddr ps q) (hb : (pinMap ps p).sbit = (pinMap ps q).sbit) :
    p = q := by
  unfold levAddr at ha
  by_contra hpq
  rcases Nat.lt_or_gt_of_ne hpq with hlt | hlt
  · have := h.apart p q hlt hq
    simp only [PinMap.apart, Bool.and_eq_true, Bool.or_eq_true, decide_eq_true_eq, bne_iff_ne] at this
    omega
  · have := h.apart q p hlt hp
    simp only [PinMap.apart, Bool.and_eq_true, Bool.or_eq_true, decide_eq_true_eq, bne_iff_ne] at this
    omega

/-! ### Which register an address is -/

/-- A pin's register of a kind is a register of that kind. -/
theorem isRegister_self (ps : Params) (addr : Params → Nat → Nat) {p : Nat} (hp : p < ps.pins.length) :
    isRegister ps addr (addr ps p) = true := by
  unfold isRegister
  simp only [List.any_eq_true, List.mem_range, beq_iff_eq]
  exact ⟨p, hp, rfl⟩

/-- A set register is no function-select register. -/
theorem setAddr_not_fsel {ps : Params} (h : ParamsWf ps) {p : Nat} (hp : p < ps.pins.length) :
    isRegister ps fselAddr (setAddr ps p) = false := by
  unfold isRegister
  simp only [List.any_eq_false, List.mem_range, beq_iff_eq]
  intro q hq
  have := h.kinds q p hq hp
  simp only [PinMap.kindsApart, Bool.and_eq_true, bne_iff_ne] at this
  unfold fselAddr setAddr
  omega

/-- A clear register is no function-select register. -/
theorem clrAddr_not_fsel {ps : Params} (h : ParamsWf ps) {p : Nat} (hp : p < ps.pins.length) :
    isRegister ps fselAddr (clrAddr ps p) = false := by
  unfold isRegister
  simp only [List.any_eq_false, List.mem_range, beq_iff_eq]
  intro q hq
  have := h.kinds q p hq hp
  simp only [PinMap.kindsApart, Bool.and_eq_true, bne_iff_ne] at this
  unfold fselAddr clrAddr
  omega

/-- A clear register is no set register. -/
theorem clrAddr_not_set {ps : Params} (h : ParamsWf ps) {p : Nat} (hp : p < ps.pins.length) :
    isRegister ps setAddr (clrAddr ps p) = false := by
  unfold isRegister
  simp only [List.any_eq_false, List.mem_range, beq_iff_eq]
  intro q hq
  have := h.kinds q p hq hp
  simp only [PinMap.kindsApart, Bool.and_eq_true, bne_iff_ne] at this
  unfold setAddr clrAddr
  omega

/-- A level register is no function-select register. -/
theorem levAddr_not_fsel {ps : Params} (h : ParamsWf ps) {p : Nat} (hp : p < ps.pins.length) :
    isRegister ps fselAddr (levAddr ps p) = false := by
  unfold isRegister
  simp only [List.any_eq_false, List.mem_range, beq_iff_eq]
  intro q hq
  have := h.kinds q p hq hp
  simp only [PinMap.kindsApart, Bool.and_eq_true, bne_iff_ne] at this
  unfold fselAddr levAddr
  omega

/-! ### Writes -/

/-- The word with the pin's bit has that bit alone. -/
theorem getLsbD_pinBit {ps : Params} (h : ParamsWf ps) {p : Nat} (hp : p < ps.pins.length) (i : Nat) :
    (pinBit ps p).getLsbD i = decide (i = (pinMap ps p).sbit) := by
  have hb := sbit_le h hp
  unfold pinBit
  by_cases hi : i = (pinMap ps p).sbit
  · subst hi
    simp; omega
  · simp only [BitVec.getLsbD_shiftLeft, hi, decide_false]
    by_cases h1 : i < (pinMap ps p).sbit
    · simp [h1]
    · have : 0 < i - (pinMap ps p).sbit := by omega
      simp [BitVec.getLsbD_one]; omega

/-- A set write of one pin's bit is for that pin alone (20_memory.md R61 "exactly one pin changes"). -/
theorem mem_pinsWritten_set {ps : Params} (h : ParamsWf ps) {p : Nat} (hp : p < ps.pins.length) (q : Nat) :
    q ∈ pinsWritten ps setAddr (setAddr ps p) (pinBit ps p) ↔ q = p := by
  unfold pinsWritten
  simp only [List.mem_filter, List.mem_range, Bool.and_eq_true, beq_iff_eq, getLsbD_pinBit h hp, decide_eq_true_eq]
  constructor
  · rintro ⟨hq, ha, hb⟩; exact setBit_unique h hq hp ha hb
  · rintro rfl; exact ⟨hp, rfl, rfl⟩

/-- A clear write of one pin's bit is for that pin alone (20_memory.md R61 "exactly one pin changes"). -/
theorem mem_pinsWritten_clr {ps : Params} (h : ParamsWf ps) {p : Nat} (hp : p < ps.pins.length) (q : Nat) :
    q ∈ pinsWritten ps clrAddr (clrAddr ps p) (pinBit ps p) ↔ q = p := by
  unfold pinsWritten
  simp only [List.mem_filter, List.mem_range, Bool.and_eq_true, beq_iff_eq, getLsbD_pinBit h hp, decide_eq_true_eq]
  constructor
  · rintro ⟨hq, ha, hb⟩; exact clrBit_unique h hq hp ha hb
  · rintro rfl; exact ⟨hp, rfl, rfl⟩

/-- Everything a set write of one pin's bit does: that pin's latch is high, nothing else changes. -/
theorem gpioWrite_set {ps : Params} (h : ParamsWf ps) (g : Gpio) {p : Nat} (hp : p < ps.pins.length) :
    (gpioWrite ps g (setAddr ps p) (pinBit ps p)).fsel = g.fsel ∧
    ∀ q, pinOut (gpioWrite ps g (setAddr ps p) (pinBit ps p)) q = if q = p then true else pinOut g q := by
  unfold gpioWrite
  rw [setAddr_not_fsel h hp, isRegister_self ps setAddr hp]
  refine ⟨rfl, fun q => ?_⟩
  simp only [pinOut, if_true, Bool.false_eq_true, if_false, cellGet_driveOut, mem_pinsWritten_set h hp]
  by_cases hq : q = p <;> simp [hq]

/-- Everything a clear write of one pin's bit does: that pin's latch is low, nothing else changes. -/
theorem gpioWrite_clr {ps : Params} (h : ParamsWf ps) (g : Gpio) {p : Nat} (hp : p < ps.pins.length) :
    (gpioWrite ps g (clrAddr ps p) (pinBit ps p)).fsel = g.fsel ∧
    ∀ q, pinOut (gpioWrite ps g (clrAddr ps p) (pinBit ps p)) q = if q = p then false else pinOut g q := by
  unfold gpioWrite
  rw [clrAddr_not_fsel h hp, clrAddr_not_set h hp, isRegister_self ps clrAddr hp]
  refine ⟨rfl, fun q => ?_⟩
  simp only [pinOut, if_true, Bool.false_eq_true, if_false, cellGet_driveOut, mem_pinsWritten_clr h hp]
  by_cases hq : q = p <;> simp [hq]

/-- A write to a function-select register stores the word. -/
theorem gpioWrite_fsel (ps : Params) (g : Gpio) {p : Nat} (hp : p < ps.pins.length) (v : Word) :
    gpioWrite ps g (fselAddr ps p) v = { g with fsel := writeWord g.fsel (fselAddr ps p) v } := by
  unfold gpioWrite
  rw [isRegister_self ps fselAddr hp]
  rfl

/-- After a field of a function-select register was replaced, that pin has the new code and every other its own. -/
theorem pinFsel_after_field {ps : Params} (h : ParamsWf ps) (g : Gpio) {p : Nat} (hp : p < ps.pins.length)
    (f : BitVec 3) {q : Nat} (hq : q < ps.pins.length) :
    pinFsel ps (Gpio.mk (writeWord g.fsel (fselAddr ps p)
      (setField3 (readWord g.fsel (fselAddr ps p)) (pinMap ps p).fpos f)) g.out) q =
      if q = p then f else pinFsel ps g q := by
  unfold pinFsel
  by_cases hqp : q = p
  · subst hqp
    rw [if_pos rfl, readWord_writeWord_same, extract_setField3_same _ _ _ (fpos_le h hp)]
  · rw [if_neg hqp]
    rcases fselAddr_apart h hp hq with ha | ha | ha
    · rw [← ha, readWord_writeWord_same, extract_setField3_apart _ _ _ _ (fpos_le h hq)
        (fields_apart h hp hq (Ne.symm hqp) ha)]
    · rw [readWord_writeWord_apart _ _ _ _ (by omega)]
    · rw [readWord_writeWord_apart _ _ _ _ (by omega)]

/-- A pin's field depends on the function-select memory alone. -/
theorem pinFsel_congr (ps : Params) {g g' : Gpio} (h : g'.fsel = g.fsel) (q : Nat) :
    pinFsel ps g' q = pinFsel ps g q := by
  unfold pinFsel
  rw [h]

/-! ### Reads -/

/-- MemRead of a pin's function-select register is the stored word (20_memory.md R60). -/
theorem memRead_fsel (s : State) {p : Nat} (hp : p < s.params.pins.length) :
    memRead s (fselAddr s.params p) = readWord s.gpio.fsel (fselAddr s.params p) := by
  unfold memRead
  rw [isRegister_self _ _ hp]
  rfl

/-- The bit of a pin in its level register is that pin's. -/
theorem levelPin_self {ps : Params} (h : ParamsWf ps) {p : Nat} (hp : p < ps.pins.length) :
    levelPin ps (levAddr ps p) (pinMap ps p).sbit = some p := by
  unfold levelPin
  cases hf : (List.range ps.pins.length).find? fun q => levAddr ps q == levAddr ps p && (pinMap ps q).sbit == (pinMap ps p).sbit with
  | none =>
    rw [List.find?_eq_none] at hf
    exact absurd (by simp) (hf p (by simpa using hp))
  | some q =>
    have h1 := List.find?_some hf
    have h2 := List.mem_of_find?_eq_some hf
    simp only [Bool.and_eq_true, beq_iff_eq] at h1
    rw [levBit_unique h (by simpa using h2) hp h1.1 h1.2]

/-- A bit of a level word. -/
theorem getLsbD_levelWord (ps : Params) (g : Gpio) (d : Bool) (free : Word) (a i : Nat) (hi : i < 32) :
    (levelWord ps g d free a).getLsbD i = levelBit ps g d (free.getLsbD i) a i := by
  unfold levelWord
  rw [BitVec.getLsbD_eq_getElem hi, BitVec.getElem_ofFnLE]

/-- A bit taken alone is that bit of the word read. -/
theorem memReadBit_eq (s : State) (a i : Nat) (hi : i < 32) : memReadBit s a i = (memRead s a).getLsbD i := by
  unfold memReadBit memRead
  split
  · rfl
  · split
    · rw [getLsbD_levelWord _ _ _ _ _ _ hi]
    · rfl

/-- The data pin's bit of its level register (20_memory.md R62; 40_line_ops.md R95; log 23). -/
theorem memReadBit_data_level {s : State} (h : ParamsWf s.params) :
    memReadBit s (levAddr s.params s.params.pinData) (pinMap s.params s.params.pinData).sbit =
      dataLevel s := by
  unfold memReadBit
  rw [levAddr_not_fsel h h.data_lt, isRegister_self _ levAddr h.data_lt]
  simp only [Bool.false_eq_true, if_false, if_true]
  unfold levelBit
  rw [levelPin_self h h.data_lt]
  simp

end Sys2Proof.Machine
end

