-- ==== Sys2Proof/Laws/Ops.lean ====
section
/-! SUPPORT. What each shared operation can do, said once: accepting or rejecting a command, moving on or completing,
the micro-operations on a line, and whose turn a step is. -/

namespace Sys2Proof.Machine

/-! ### Errors and acceptance -/

/-- Every way `issue` can end (60_exceptions.md R151): the word is turned away while BUSY = 1, turned away out of
place, or accepted. -/
theorem issue_cases (op : Op) (w : Word) (f : Srcp → Srcp) (s : State) :
    (s.srcp.busy = true ∧ issue op w f s = raiseErr .busy w s) ∨
    (s.srcp.busy = false ∧ legal op s.srcp.lstate s.srcp.rawValid = false ∧ issue op w f s = raiseErr .state w s) ∨
    (s.srcp.busy = false ∧ legal op s.srcp.lstate s.srcp.rawValid = true ∧
      issue op w f s = { s with srcp := f { s.srcp with cur := op } }) := by
  unfold issue
  cases hb : s.srcp.busy <;> cases hl : legal op s.srcp.lstate s.srcp.rawValid <;> simp

/-- Turned away because BUSY = 1. -/
theorem raiseErr_busy (w : Word) (s : State) :
    raiseErr .busy w s = { s with srcp := { s.srcp with errBusy := true, errcmd := w } } := rfl

/-- Turned away because the word is not well-formed. -/
theorem raiseErr_illegal (w : Word) (s : State) :
    raiseErr .illegal w s = { s with srcp := { s.srcp with errIllegal := true, errcmd := w } } := rfl

/-- Turned away because the command is out of place. -/
theorem raiseErr_state (w : Word) (s : State) :
    raiseErr .state w s = { s with srcp := { s.srcp with errState := true, errcmd := w } } := rfl

/-- A CONFIGURE that was denied a line ends. -/
theorem raiseErr_resource (w : Word) (s : State) :
    raiseErr .resource w s =
      { s with srcp := { s.srcp with errResource := true, errcmd := w, busy := false, upc := 0#7 } } := rfl

/-- A CONFIGURE without a sink ends. -/
theorem raiseErr_alloc (w : Word) (s : State) :
    raiseErr .alloc w s =
      { s with srcp := { s.srcp with errAlloc := true, errcmd := w, busy := false, upc := 0#7 } } := rfl

/-! ### Moving on and completing (10_state.md R35) -/

/-- A micro-operation that is not the last. -/
theorem advance_inside (r : Srcp) (h : r.upc.toNat + 1 < (microprogram r.cur).length) :
    advance r = { r with upc := r.upc + 1#7 } := by
  unfold advance
  rw [if_pos h]

/-- The last micro-operation. -/
theorem advance_last (r : Srcp) (h : (microprogram r.cur).length ≤ r.upc.toNat + 1) :
    advance r = { completion r with busy := false, upc := 0#7 } := by
  unfold advance
  rw [if_neg (by omega)]

/-- The longest microprogram has 84 micro-operations (10_state.md R35). -/
theorem microprogram_length_le (op : Op) : (microprogram op).length ≤ 84 := by
  cases op <;> decide

/-- UPC + 1 does not wrap inside a microprogram. -/
theorem upc_succ_toNat (r : Srcp) (h : r.upc.toNat + 1 < (microprogram r.cur).length) :
    (r.upc + 1#7).toNat = r.upc.toNat + 1 := by
  have := microprogram_length_le r.cur
  rw [BitVec.toNat_add]
  simp; omega

/-! ### Micro-operations on a line -/

/-- Everything LSET does under well-formed parameters (40_line_ops.md R93). -/
theorem setLine_spec (l : Line) (s : State) (h : ParamsWf s.params) :
    ∃ g c, setLine l s = { s with srcp := advance s.srcp, gpio := g, ctrl := c } ∧ g.fsel = s.gpio.fsel ∧
      (∀ q, pinOut g q = if q = linePin s.params l then true else pinOut s.gpio q) ∧
      c = ctrlSees s.ctrl (seenLevel s.params s.gpio s.params.pinClk) (seenLevel s.params g s.params.pinClk)
        (seenLevel s.params g s.params.pinLatch) :=
  have hg := gpioWrite_set h s.gpio (linePin_lt h l)
  ⟨_, _, rfl, hg.1, hg.2, rfl⟩

/-- Everything LCLR does under well-formed parameters (40_line_ops.md R94). -/
theorem clearLine_spec (l : Line) (s : State) (h : ParamsWf s.params) :
    ∃ g c, clearLine l s = { s with srcp := advance s.srcp, gpio := g, ctrl := c } ∧ g.fsel = s.gpio.fsel ∧
      (∀ q, pinOut g q = if q = linePin s.params l then false else pinOut s.gpio q) ∧
      c = ctrlSees s.ctrl (seenLevel s.params s.gpio s.params.pinClk) (seenLevel s.params g s.params.pinClk)
        (seenLevel s.params g s.params.pinLatch) :=
  have hg := gpioWrite_clr h s.gpio (linePin_lt h l)
  ⟨_, _, rfl, hg.1, hg.2, rfl⟩

/-- Everything LCFG does under well-formed parameters (40_line_ops.md R92). -/
theorem configureLine_spec (l : Line) (d : Dir) (s : State) (h : ParamsWf s.params) :
    ∃ c, configureLine l d s =
      { s with
        srcp := advance s.srcp
        gpio := Gpio.mk (writeWord s.gpio.fsel (fselAddr s.params (linePin s.params l))
          (setField3 (readWord s.gpio.fsel (fselAddr s.params (linePin s.params l)))
            (pinMap s.params (linePin s.params l)).fpos (dirCode d))) s.gpio.out
        ctrl := c } := by
  have hp := linePin_lt h l
  refine ⟨(configureLine l d s).ctrl, ?_⟩
  unfold configureLine
  simp only [seqNext, memWrite, memRead_fsel s hp, gpioWrite_fsel _ _ hp]

/-- Everything SMPL does under well-formed parameters (40_line_ops.md R95; log 23). -/
theorem sampleData_spec (s : State) (h : ParamsWf s.params) :
    sampleData s =
      { s with
        srcp := advance { s.srcp with
          shift := setBit s.srcp.shift (idx s.srcp.upc) (!dataLevel s) }
        env := tookLevel s.env } := by
  unfold sampleData sampledLevel
  rw [memReadBit_data_level h]
  rfl

/-- Everything WAIT does (40_line_ops.md R96). -/
theorem waitFor_spec (c : DelayClass) (s : State) :
    waitFor c s =
      { s with
        srcp := advance { s.srcp with dcnt := 0 }
        env := tookWait s.env
        waited := s.waited + waitTicks s.params c (nextWait s.env) } := rfl

/-- No line is among the owned ones exactly where none is owned. -/
theorem ownedLines_eq_nil (r : Srcp) : ownedLines r = [] ↔ ∀ l, owned r l = false := by
  simp only [ownedLines, List.filter_eq_nil_iff, Bool.not_eq_true]
  exact ⟨fun h l => h l (by cases l <;> decide), fun h l _ => h l⟩

/-- Some line is among the owned ones exactly where one is owned. -/
theorem ownedLines_ne_nil (r : Srcp) : ownedLines r ≠ [] ↔ ∃ l, owned r l = true := by
  rw [ne_eq, ownedLines_eq_nil, not_forall]
  simp only [Bool.not_eq_false]

/-- The two ways a denied LACQ can end (41_pin_config.md R101): with CONFIGURE, or with its release steps to follow. -/
theorem denyLine_cases (s : State) :
    ((∀ l, owned s.srcp l = false) ∧ denyLine s = failConfigure .resource s) ∨
    ((∃ l, owned s.srcp l = true) ∧ denyLine s = seqNext s) := by
  unfold denyLine
  by_cases h : ownedLines s.srcp = []
  · exact .inl ⟨(ownedLines_eq_nil _).mp h, if_pos h⟩
  · exact .inr ⟨(ownedLines_ne_nil _).mp h, if_neg h⟩

/-- Every way LACQ can end (40_line_ops.md R90): the line was SRCP's, was granted, or was denied. -/
theorem acquireLine_cases (l : Line) (s : State) :
    (owned s.srcp l = true ∧ acquireLine l s = seqNext s) ∨
    (owned s.srcp l = false ∧ nextGrant s.env = true ∧
      acquireLine l s = seqNext { s with env := tookGrant s.env, srcp := setOwned l true s.srcp }) ∨
    (owned s.srcp l = false ∧ nextGrant s.env = false ∧
      acquireLine l s = denyLine { s with env := tookGrant s.env }) := by
  unfold acquireLine
  cases owned s.srcp l <;> cases nextGrant s.env <;> simp

/-- A failed CONFIGURE ends with one of its two errors (41_pin_config.md R101). -/
theorem releaseError_cases (r : Srcp) :
    (r.upc = 3#7 ∧ r.ownedData = true ∧ releaseError r = .alloc) ∨
    ((r.upc = 3#7 → r.ownedData = false) ∧ releaseError r = .resource) := by
  unfold releaseError
  by_cases h : r.upc = 3#7 ∧ r.ownedData = true
  · exact .inl ⟨h.1, h.2, if_pos h⟩
  · exact .inr ⟨fun hu => Bool.eq_false_iff.mpr fun hd => h ⟨hu, hd⟩, if_neg h⟩

/-- Everything that can follow an LREL (40_line_ops.md R91, 41_pin_config.md R101): SEQ moves on in the microprogram, the
failed CONFIGURE ends, or its next release step follows. -/
theorem releaseLine_cases (l : Line) (s : State) :
    (s.srcp.cur ≠ .configure ∧ releaseLine l s = { s with srcp := advance (setOwned l false s.srcp) }) ∨
    (s.srcp.cur = .configure ∧ (∀ m, owned (setOwned l false s.srcp) m = false) ∧
      releaseLine l s = failConfigure (releaseError s.srcp) { s with srcp := setOwned l false s.srcp }) ∨
    (s.srcp.cur = .configure ∧ (∃ m, owned (setOwned l false s.srcp) m = true) ∧
      releaseLine l s = { s with srcp := setOwned l false s.srcp }) := by
  unfold releaseLine releaseNext
  by_cases hc : s.srcp.cur = .configure
  · by_cases hn : ownedLines (setOwned l false s.srcp) = []
    · exact .inr (.inl ⟨hc, (ownedLines_eq_nil _).mp hn, by simp only [if_pos hc, if_pos hn]⟩)
    · exact .inr (.inr ⟨hc, (ownedLines_ne_nil _).mp hn, by simp only [if_pos hc, if_neg hn]⟩)
  · exact .inl ⟨hc, by simp only [if_neg hc]; rfl⟩

/-- Where a line is missing (41_pin_config.md R101). -/
theorem lineMissing_iff (r : Srcp) :
    lineMissing r = true ↔
      r.cur = .configure ∧ linesHeld r.lstate = false ∧ ∃ l, lineIndex l < r.upc.toNat ∧ owned r l = false := by
  simp only [lineMissing, acquiring, Bool.and_eq_true, beq_iff_eq, Bool.not_eq_true', List.any_eq_true, decide_eq_true_eq,
    and_assoc]
  exact ⟨fun ⟨h1, h2, l, _, h⟩ => ⟨h1, h2, l, h⟩, fun ⟨h1, h2, l, h⟩ => ⟨h1, h2, l, (by cases l <;> decide), h⟩⟩

/-- Where the sink is to be asked (41_pin_config.md R101). -/
theorem sinkDue_iff (r : Srcp) :
    sinkDue r = true ↔
      r.cur = .configure ∧ linesHeld r.lstate = false ∧ r.upc = 3#7 ∧ ∀ l, owned r l = true := by
  simp only [sinkDue, acquiring, Bool.and_eq_true, beq_iff_eq, Bool.not_eq_true', and_assoc]
  exact ⟨fun ⟨h1, h2, h3, a, b, c⟩ => ⟨h1, h2, h3, fun l => (by cases l <;> assumption)⟩,
    fun ⟨h1, h2, h3, h⟩ => ⟨h1, h2, h3, h _, h _, h _⟩⟩

/-- The release steps are those of a CONFIGURE on its acquiring path, and relinquish the first owned line. -/
theorem nextRelease_some {s : State} {l : Line} (h : nextRelease s = some l) :
    s.srcp.cur = .configure ∧ linesHeld s.srcp.lstate = false ∧ (ownedLines s.srcp).head? = some l ∧
      owned s.srcp l = true := by
  unfold nextRelease at h
  split at h
  · rename_i hf
    refine (show _ ∧ _ from ?_).elim fun hc hl => ⟨hc, hl, h, (List.mem_filter.mp (List.mem_of_head? h)).2⟩
    simp only [configureFailed, Bool.or_eq_true, Bool.and_eq_true] at hf
    rcases hf with hm | ⟨hd, -⟩
    · exact ⟨((lineMissing_iff _).mp hm).1, ((lineMissing_iff _).mp hm).2.1⟩
    · exact ⟨((sinkDue_iff _).mp hd).1, ((sinkDue_iff _).mp hd).2.1⟩
  · cases h

/-- Where no release step is due and no sink is asked: outside CONFIGURE's acquiring path, and on it where every line
before UPC is owned and UPC is not 3. -/
theorem nextRelease_none {s : State}
    (h : s.srcp.cur = .configure → linesHeld s.srcp.lstate = true ∨
      s.srcp.upc ≠ 3#7 ∧ ∀ l, lineIndex l < s.srcp.upc.toNat → owned s.srcp l = true) :
    nextRelease s = none ∧ askSink s = s := by
  have hm : lineMissing s.srcp = false := Bool.eq_false_iff.mpr fun hm => by
    obtain ⟨hc, hl, l, hi, ho⟩ := (lineMissing_iff _).mp hm
    rcases h hc with h | ⟨-, h⟩
    · rw [hl] at h; cases h
    · rw [h l hi] at ho; cases ho
  have hd : sinkDue s.srcp = false := Bool.eq_false_iff.mpr fun hd => by
    obtain ⟨hc, hl, hu, -⟩ := (sinkDue_iff _).mp hd
    rcases h hc with h | ⟨h, -⟩
    · rw [hl] at h; cases h
    · exact h hu
  exact ⟨by simp [nextRelease, configureFailed, hm, hd], by simp [askSink, hd]⟩

/-- Where the sink is asked, its answer says whether LREL CLK is due (41_pin_config.md R101). -/
theorem nextRelease_sinkDue {s : State} (h : sinkDue s.srcp = true) :
    nextRelease s = (if nextSinkOk s.env then none else some .clk) ∧ askSink s = { s with env := tookSinkOk s.env } := by
  obtain ⟨-, -, -, ho⟩ := (sinkDue_iff _).mp h
  have hm : lineMissing s.srcp = false := Bool.eq_false_iff.mpr fun hm => by
    obtain ⟨-, -, l, -, hl⟩ := (lineMissing_iff _).mp hm
    rw [ho l] at hl; cases hl
  refine ⟨?_, by simp [askSink, h]⟩
  simp only [nextRelease, configureFailed, hm, h, ownedLines, Bool.false_or, Bool.true_and, ho, List.filter_cons, if_true]
  cases nextSinkOk s.env <;> rfl

/-- Where a line before UPC is not owned, the first owned line is due, and no sink is asked (41_pin_config.md R101). -/
theorem nextRelease_lineMissing {s : State} (h : lineMissing s.srcp = true) :
    nextRelease s = (ownedLines s.srcp).head? ∧ askSink s = s := by
  obtain ⟨-, -, l, -, hl⟩ := (lineMissing_iff _).mp h
  have hd : sinkDue s.srcp = false := Bool.eq_false_iff.mpr fun hd => by
    rw [((sinkDue_iff _).mp hd).2.2.2 l] at hl; cases hl
  exact ⟨by simp [nextRelease, configureFailed, h], by simp [askSink, hd]⟩

/-- A release step's byte is its line's LREL (30_encoding.md R77). -/
theorem lrelByte_decodes (l : Line) :
    decodeMicroOp (lrelByte l) = .ok (match l with | .clk => .lrelClk | .latch => .lrelLatch | .data => .lrelData) := by
  cases l <;> decide

/-- The word of CONFIGURE, which ERRCMD gets when it fails (log 10). -/
theorem encodeWord_configure : encodeWord .configure = 0x00000001#32 := by decide

/-! ### What the machine does in a turn -/

/-- Every command only issues itself: the commands' meanings, in one shape. -/
theorem exec_command_cases (i : Instr) (w : Word) (h : encode i = .command w) :
    ∃ op f, ∀ s, exec i s = .next (issue op w f s) := by
  cases i <;> simp only [encode, Code.command.injEq, reduceCtorEq] at h <;> subst h <;>
    exact ⟨_, _, fun _ => rfl⟩

/-- Every instruction completes: `exec` answers a next state in every state. -/
theorem exec_completes (i : Instr) (s : State) : ∃ t, exec i s = .next t := by
  cases i <;> exact ⟨_, rfl⟩

/-- A word the decoder takes is a command, and its own encoding. -/
theorem encode_of_decodeCommand (w : Word) (i : Instr) (h : decodeCommand w = .ok i) :
    ∃ v, encode i = .command v := by
  unfold decodeCommand at h
  simp only at h
  split at h
  · cases h
  · split at h
    · cases h
    · unfold decodeOpcode at h
      split at h <;> first | cases h; exact ⟨_, rfl⟩ | cases h

/-- Every byte of every microprogram is a legal micro-operation (40_line_ops.md R98). -/
theorem microprogram_decodes (op : Op) : ∀ b ∈ microprogram op, ∃ i, decodeMicroOp b = .ok i := by
  have h : ∀ b ∈ [0x28#8, 0x00#8, 0x48#8, 0x01#8, 0x70#8, 0x40#8, 0x02#8, 0x20#8, 0x03#8, 0xE0#8, 0xA0#8, 0xA8#8,
      0xB0#8, 0x81#8, 0x89#8, 0x90#8, 0xC0#8, 0xC8#8, 0xD0#8], ∃ i, decodeMicroOp b = .ok i := by
    simp [decodeMicroOp, microOpTable, List.lookup]
  intro b hb
  apply h
  revert hb b
  cases op <;> decide

end Sys2Proof.Machine
end

