-- ==== Sys2Proof/Laws/PerInstr.lean ====
section
/-! SUPPORT. Statements about each instruction as syntax, proved constructor by constructor. -/

namespace Sys2Proof.Laws.EncodedIsLegal

/-- The encoding of an instruction is well-formed (30_encoding.md R72) or a legal micro-operation byte (R77). -/
def Statement (i : Instr) : Prop :=
  match encode i with
  | .command w => wellFormedWord w = true
  | .microOp b => legalMicroOp b = true

theorem nop : Statement .nop := rfl
theorem configure : Statement .configure := rfl
theorem idle : Statement .idle := rfl
theorem poll : Statement .poll := rfl
theorem decode : Statement .decode := rfl
theorem decodeImm (imm : BitVec 16) : Statement (.decodeImm imm) := by
  show wellFormedWord (commandWord (opCode .decodeImm) imm) = true
  unfold wellFormedWord opcodeDefined reservedClear immediateAllowed commandOp commandRsvd commandImm
  rw [extract_op_commandWord, extract_rsvd_commandWord]
  simp [opCode]
theorem teardown : Statement .teardown := rfl
theorem waitTLh : Statement .waitTLh := rfl
theorem waitTLl : Statement .waitTLl := rfl
theorem waitTCl : Statement .waitTCl := rfl
theorem waitTCh : Statement .waitTCh := rfl
theorem lsetClk : Statement .lsetClk := rfl
theorem lsetLatch : Statement .lsetLatch := rfl
theorem lclrClk : Statement .lclrClk := rfl
theorem lclrLatch : Statement .lclrLatch := rfl
theorem smplData : Statement .smplData := rfl
theorem lcfgClkOut : Statement .lcfgClkOut := rfl
theorem lcfgLatchOut : Statement .lcfgLatchOut := rfl
theorem lcfgDataIn : Statement .lcfgDataIn := rfl
theorem lacqClk : Statement .lacqClk := rfl
theorem lacqLatch : Statement .lacqLatch := rfl
theorem lacqData : Statement .lacqData := rfl
theorem lrelClk : Statement .lrelClk := rfl
theorem lrelLatch : Statement .lrelLatch := rfl
theorem lrelData : Statement .lrelData := rfl
theorem emit : Statement .emit := rfl

end Sys2Proof.Laws.EncodedIsLegal
end

