-- ==== Sys2Proof/Laws/Step.lean ====
section
/-! SUPPORT. What one step can do, said once: the turns of the outside, SEQ's micro-operations and HOST's commands. -/

namespace Sys2Proof.Machine

/-! ### HOST's accesses -/

/-- A byte offset below 64 is in the window. -/
theorem inWindow_offset (ps : Params) {off : Nat} (h : off < 64) : inWindow ps (ps.blockBase + off) = true := by
  simp [inWindow]; omega

/-- A 32-bit access at a word offset is whole. -/
theorem accessWhole_offset (ps : Params) {off : Nat} (h : off % 4 = 0) (wr : Bool) (d : Word) :
    accessWhole ps { write := wr, bytes := 4, addr := ps.blockBase + off, data := d } = true := by
  simp [accessWhole, h]

/-- HOST's 32-bit write at a word offset of the window. -/
theorem nextTurn_hostWord {s : State} {off : Nat} {v : Word} {rest : List Input} (h : off < 64) (h4 : off % 4 = 0)
    (hi : s.inputs = hostWord s.params off v :: rest) :
    nextTurn s =
      if s.resetLine then .settled { s with inputs := rest, responses := .ack :: s.responses }
      else writeTurn off v { s with inputs := rest, responses := .ack :: s.responses } := by
  simp [nextTurn, hi, hostWord, accessTurn, inWindow_offset _ h, accessWhole_offset _ h4, respond]

/-- HOST's 32-bit read at a word offset of the window. -/
theorem nextTurn_hostFetch {s : State} {off : Nat} {rest : List Input} (h : off < 64) (h4 : off % 4 = 0)
    (hi : s.inputs = hostFetch s.params off :: rest) :
    nextTurn s =
      .settled { s with inputs := rest, responses := .data (hostRead (readable s) off) :: s.responses } := by
  simp [nextTurn, hi, hostFetch, accessTurn, inWindow_offset _ h, accessWhole_offset _ h4, respond, readable]

/-! ### SEQ's turn -/

/-- SEQ's turn where it has a micro-operation. -/
theorem seqTurn_run {s : State} {b : Byte} {i : Instr} (hb : s.srcp.busy = true) (hr : s.resetLine = false)
    (hf : fetch s = some b) (hd : decodeMicroOp b = .ok i) : seqTurn s = .run i (askSink s) := by
  simp [seqTurn, hr, hb, hf, hd]

/-- With nothing pending, a step with BUSY = 1 runs the micro-operation that is due. -/
theorem step_seq {s : State} {b : Byte} {i : Instr} (hi : s.inputs = []) (hb : s.srcp.busy = true)
    (hr : s.resetLine = false) (hf : fetch s = some b) (hd : decodeMicroOp b = .ok i) : step s = exec i (askSink s) := by
  simp [step, takeTurn, nextTurn, hi, seqTurn_run hb hr hf hd]

/-- Every way SEQ's turn can end. -/
theorem seqTurn_cases (s : State) :
    ((s.resetLine = true ∨ s.srcp.busy = false) ∧ seqTurn s = .settled s) ∨
    (s.resetLine = false ∧ s.srcp.busy = true ∧
      ((fetch s = none ∧ seqTurn s = .overrun) ∨
       (∃ b e, fetch s = some b ∧ decodeMicroOp b = .error e ∧ seqTurn s = .reserved b) ∨
       ∃ b i, fetch s = some b ∧ decodeMicroOp b = .ok i ∧ seqTurn s = .run i (askSink s))) := by
  unfold seqTurn
  cases hr : s.resetLine <;> cases hb : s.srcp.busy <;> simp
  cases hf : fetch s with
  | none => simp
  | some b => cases hd : decodeMicroOp b <;> simp [hd]

/-- Every byte SEQ fetches is a micro-operation. -/
theorem fetch_decodes {s : State} {b : Byte} (h : fetch s = some b) : ∃ i, decodeMicroOp b = .ok i := by
  unfold fetch at h
  split at h
  · cases h; exact ⟨_, lrelByte_decodes _⟩
  · exact microprogram_decodes _ b (List.mem_of_getElem? h)

/-- Where no release step is due, SEQ fetches from CUR's microprogram at UPC. -/
theorem fetch_microprogram {s : State} (h : nextRelease s = none) :
    fetch s = (microprogram s.srcp.cur)[s.srcp.upc.toNat]? := by
  unfold fetch
  rw [h]

/-- Where one is due, SEQ fetches its LREL. -/
theorem fetch_release {s : State} {l : Line} (h : nextRelease s = some l) : fetch s = some (lrelByte l) := by
  unfold fetch
  rw [h]

/-- With nothing pending and no release step due, a step with BUSY = 1 runs the micro-operation at UPC. -/
theorem step_microprogram {s : State} {b : Byte} {i : Instr} (hi : s.inputs = []) (hb : s.srcp.busy = true)
    (hr : s.resetLine = false)
    (hn : s.srcp.cur = .configure → linesHeld s.srcp.lstate = true ∨
      s.srcp.upc ≠ 3#7 ∧ ∀ l, lineIndex l < s.srcp.upc.toNat → owned s.srcp l = true)
    (hf : (microprogram s.srcp.cur)[s.srcp.upc.toNat]? = some b) (hd : decodeMicroOp b = .ok i) : step s = exec i s := by
  rw [step_seq hi hb hr ((fetch_microprogram (nextRelease_none hn).1).trans hf) hd, (nextRelease_none hn).2]

/-! ### Everything a step can do -/

/-- SEQ runs the micro-operation it fetches; `rest` is what is pending after its turn. -/
def SeqRuns (s t : State) : Prop :=
  seqsTurn s = true ∧ ∃ rest b i, s.resetLine = false ∧ s.srcp.busy = true ∧ fetch s = some b ∧
    decodeMicroOp b = .ok i ∧ exec i (askSink { s with inputs := rest }) = .next t

/-- HOST's write of a well-formed word to CMD is taken. -/
def CommandRuns (s t : State) : Prop :=
  ∃ rest w i, s.resetLine = false ∧ s.inputs = hostWord s.params 0x00 w :: rest ∧ decodeCommand w = .ok i ∧
    exec i { s with inputs := rest, responses := .ack :: s.responses } = .next t

/-- The outside takes its turn, or HOST's access needs no instruction. -/
def OutsideActs (s t : State) : Prop :=
  (∃ rest rs, t = { s with inputs := rest, responses := rs }) ∨
  (∃ rest w, s.resetLine = false ∧ s.inputs = hostWord s.params 0x00 w :: rest ∧
    t = rejectWord w { s with inputs := rest, responses := .ack :: s.responses }) ∨
  (∃ rest v, s.resetLine = false ∧ s.inputs = hostWord s.params 0x04 v :: rest ∧
    t = clearErrors v { s with inputs := rest, responses := .ack :: s.responses }) ∨
  (∃ rest, s.inputs = .resetAssert :: rest ∧ t = assertReset { s with inputs := rest }) ∨
  (∃ rest, s.inputs = .resetRelease :: rest ∧ t = { s with inputs := rest, resetLine := false }) ∨
  (∃ rest b, s.inputs = .buttons b :: rest ∧ t = pressButtons b { s with inputs := rest }) ∨
  (∃ rest a v, s.inputs = .otherMaster a v :: rest ∧ t = memWrite { s with inputs := rest } a v)

/-- A step in whose turn SEQ is to move, after `rest` was left pending. -/
theorem seqTurn_inv {s t : State} {rest : List Input} (hs : seqsTurn s = true)
    (h : takeTurn (seqTurn { s with inputs := rest }) = .next t) :
    SeqRuns s t ∨ OutsideActs s t := by
  rcases seqTurn_cases { s with inputs := rest } with
    ⟨-, he⟩ | ⟨hr, hb, ⟨-, he⟩ | ⟨b, e, -, -, he⟩ | ⟨b, i, hf, hd, he⟩⟩ <;> rw [he] at h
  · cases h; exact .inr (.inl ⟨rest, s.responses, rfl⟩)
  · cases h
  · cases h
  · exact .inl ⟨hs, rest, b, i, hr, hb, hf, hd, h⟩

/-- A step in whose turn HOST writes v at a word offset of the window. -/
theorem writeTurn_inv {s t : State} {off : Nat} {v : Word} {rest : List Input} (hr : s.resetLine = false)
    (hi : s.inputs = hostWord s.params off v :: rest)
    (h : takeTurn (writeTurn off v { s with inputs := rest, responses := .ack :: s.responses }) = .next t) :
    CommandRuns s t ∨ OutsideActs s t := by
  unfold writeTurn at h
  split at h
  · unfold issueTurn at h
    cases hd : decodeCommand v with
    | ok i => rw [hd] at h; exact .inl ⟨rest, v, i, hr, hi, hd, h⟩
    | error e => rw [hd] at h; cases h; exact .inr (.inr (.inl ⟨rest, v, hr, hi, rfl⟩))
  · cases h; exact .inr (.inr (.inr (.inl ⟨rest, v, hr, hi, rfl⟩)))
  · cases h; exact .inr (.inl ⟨_, _, rfl⟩)

/-- A step in whose turn HOST makes an access. -/
theorem accessTurn_inv {s t : State} {a : HostAccess} {rest : List Input} (hi : s.inputs = .access a :: rest)
    (h : takeTurn (accessTurn a { s with inputs := rest }) = .next t) : CommandRuns s t ∨ OutsideActs s t := by
  unfold accessTurn at h
  by_cases hw : inWindow s.params a.addr = true
  · by_cases ha : accessWhole s.params a = true
    · simp only [hw, ha, Bool.not_true, Bool.false_eq_true, if_false] at h
      by_cases hwr : a.write = true
      · simp only [hwr, if_true] at h
        cases hr : s.resetLine with
        | true =>
          simp only [hr, if_true] at h
          cases h
          exact .inr (.inl ⟨rest, .ack :: s.responses, by simp only [respond, hr]⟩)
        | false =>
          simp only [hr, Bool.false_eq_true, if_false] at h
          have hi' : s.inputs = hostWord s.params (a.addr - s.params.blockBase) a.data :: rest := by
            obtain ⟨w, n, addr, v⟩ := a
            simp only [inWindow, accessWhole, Bool.and_eq_true, decide_eq_true_eq, beq_iff_eq] at hw ha hwr ⊢
            rw [hi, hostWord, hwr, ha.1, Nat.add_sub_of_le hw.1]
          refine writeTurn_inv hr hi' ?_
          rw [← h]; simp only [respond, hr]
      · simp only [hwr, Bool.false_eq_true, if_false] at h
        cases h; exact .inr (.inl ⟨_, _, rfl⟩)
    · simp only [hw, ha, Bool.not_true, Bool.not_false, Bool.false_eq_true, if_false, if_true] at h
      cases h; exact .inr (.inl ⟨_, _, rfl⟩)
  · simp only [hw, Bool.not_false, if_true] at h
    cases h; exact .inr (.inl ⟨_, _, rfl⟩)

/-- Everything a step that answers a next state can do. -/
theorem step_cases {s t : State} (h : step s = .next t) : SeqRuns s t ∨ CommandRuns s t ∨ OutsideActs s t := by
  unfold step nextTurn at h
  cases hi : s.inputs with
  | nil =>
    have hs : ({ s with inputs := [] } : State) = s := by rw [← hi]
    simp only [hi] at h
    rw [← hs] at h
    rcases seqTurn_inv (by simp [seqsTurn, hi]) h with h | h
    · exact .inl h
    · exact .inr (.inr h)
  | cons x rest =>
    rw [hi] at h
    cases x with
    | seq =>
      rcases seqTurn_inv (by simp [seqsTurn, hi]) h with h | h
      · exact .inl h
      · exact .inr (.inr h)
    | access a =>
      rcases accessTurn_inv hi h with h | h
      · exact .inr (.inl h)
      · exact .inr (.inr h)
    | waitIdle =>
      simp only [waitIdleTurn] at h
      by_cases hb : s.srcp.busy = true
      · have hs : ({ s with inputs := s.inputs } : State) = s := rfl
        rw [if_pos hb, ← hs] at h
        rcases seqTurn_inv (by simp [seqsTurn, hi, hb]) h with h | h
        · exact .inl h
        · exact .inr (.inr h)
      · rw [if_neg hb] at h
        cases h
        exact .inr (.inr (.inl ⟨_, _, rfl⟩))
    | resetAssert => cases h; exact .inr (.inr (.inr (.inr (.inr (.inl ⟨rest, hi, rfl⟩)))))
    | resetRelease => cases h; exact .inr (.inr (.inr (.inr (.inr (.inr (.inl ⟨rest, hi, rfl⟩))))))
    | buttons b => cases h; exact .inr (.inr (.inr (.inr (.inr (.inr (.inr (.inl ⟨rest, b, hi, rfl⟩)))))))
    | otherMaster a v =>
      cases h; exact .inr (.inr (.inr (.inr (.inr (.inr (.inr (.inr ⟨rest, a, v, hi, rfl⟩)))))))

/-! ### Everything SEQ and HOST's commands can do -/

/-- Every micro-operation is one of eight shared operations. -/
theorem exec_microOp_cases {b : Byte} {i : Instr} {s t : State} (hd : decodeMicroOp b = .ok i)
    (h : exec i s = .next t) :
    (∃ c, t = waitFor c s) ∨ (∃ l, t = setLine l s) ∨ (∃ l, t = clearLine l s) ∨ t = sampleData s ∨
    (∃ l d, t = configureLine l d s) ∨
    (i ∈ [Instr.lacqClk, .lacqLatch, .lacqData] ∧ ∃ l, t = acquireLine l s) ∨
    (i ∈ [Instr.lrelClk, .lrelLatch, .lrelData] ∧ ∃ l, t = releaseLine l s) ∨
    (nextReady s.env = true ∧ t = seqNext (deliver { s with env := tookReady s.env })) ∨
    (nextReady s.env = false ∧ t = { s with env := tookReady s.env }) := by
  have hm := mem_microOpTable hd
  simp only [microOpTable, List.mem_cons, Prod.mk.injEq, List.not_mem_nil, or_false] at hm
  rcases hm with hm | hm | hm | hm | hm | hm | hm | hm | hm | hm | hm | hm | hm | hm | hm | hm | hm | hm | hm <;>
    obtain ⟨-, rfl⟩ := hm
  case _ => cases h; exact .inl ⟨.tLH, rfl⟩
  case _ => cases h; exact .inl ⟨.tLL, rfl⟩
  case _ => cases h; exact .inl ⟨.tCL, rfl⟩
  case _ => cases h; exact .inl ⟨.tCH, rfl⟩
  case _ => cases h; exact .inr (.inl ⟨.clk, rfl⟩)
  case _ => cases h; exact .inr (.inl ⟨.latch, rfl⟩)
  case _ => cases h; exact .inr (.inr (.inl ⟨.clk, rfl⟩))
  case _ => cases h; exact .inr (.inr (.inl ⟨.latch, rfl⟩))
  case _ => cases h; exact .inr (.inr (.inr (.inl rfl)))
  case _ => cases h; exact .inr (.inr (.inr (.inr (.inl ⟨.clk, .output, rfl⟩))))
  case _ => cases h; exact .inr (.inr (.inr (.inr (.inl ⟨.latch, .output, rfl⟩))))
  case _ => cases h; exact .inr (.inr (.inr (.inr (.inl ⟨.data, .input, rfl⟩))))
  case _ => cases h; exact .inr (.inr (.inr (.inr (.inr (.inl ⟨by decide, .clk, rfl⟩)))))
  case _ => cases h; exact .inr (.inr (.inr (.inr (.inr (.inl ⟨by decide, .latch, rfl⟩)))))
  case _ => cases h; exact .inr (.inr (.inr (.inr (.inr (.inl ⟨by decide, .data, rfl⟩)))))
  case _ => cases h; exact .inr (.inr (.inr (.inr (.inr (.inr (.inl ⟨by decide, .clk, rfl⟩))))))
  case _ => cases h; exact .inr (.inr (.inr (.inr (.inr (.inr (.inl ⟨by decide, .latch, rfl⟩))))))
  case _ => cases h; exact .inr (.inr (.inr (.inr (.inr (.inr (.inl ⟨by decide, .data, rfl⟩))))))
  case _ =>
    simp only [exec, execEmit] at h
    cases hr : nextReady s.env <;> rw [hr] at h <;> cases h <;> simp

/-- A release step of a failed CONFIGURE relinquishes the line that is due and does nothing else. -/
theorem exec_release {b : Byte} {i : Instr} {s u t : State} {l : Line} (hl : nextRelease s = some l)
    (hf : fetch s = some b) (hd : decodeMicroOp b = .ok i) (h : exec i u = .next t) : t = releaseLine l u := by
  rw [fetch_release hl] at hf
  cases hf
  rw [lrelByte_decodes] at hd
  cases l <;> cases hd <;> exact (Host.Outcome.next.inj h).symm

/-- The parts of the state that SRCP's instructions never touch. -/
structure SameOutside (s t : State) : Prop where
  params : t.params = s.params
  resetLine : t.resetLine = s.resetLine
  inputs : t.inputs = s.inputs
  responses : t.responses = s.responses

/-- What LREL leaves alone, wherever it stands (40_line_ops.md R91, 41_pin_config.md R101). -/
theorem releaseLine_frame (l : Line) (s : State) :
    SameOutside s (releaseLine l s) ∧ (releaseLine l s).gpio = s.gpio ∧ (releaseLine l s).ctrl = s.ctrl ∧
    (releaseLine l s).env = s.env ∧ (releaseLine l s).delivered = s.delivered ∧
    (releaseLine l s).waited = s.waited := by
  rcases releaseLine_cases l s with ⟨-, hx⟩ | ⟨-, -, hx⟩ | ⟨-, -, hx⟩ <;> rw [hx] <;>
    exact ⟨⟨rfl, rfl, rfl, rfl⟩, rfl, rfl, rfl, rfl, rfl⟩

/-- What LACQ leaves alone, however it ends (40_line_ops.md R90, 41_pin_config.md R101). -/
theorem acquireLine_frame (l : Line) (s : State) :
    SameOutside s (acquireLine l s) ∧ (acquireLine l s).gpio = s.gpio ∧ (acquireLine l s).ctrl = s.ctrl ∧
    (acquireLine l s).delivered = s.delivered ∧ (acquireLine l s).waited = s.waited := by
  rcases acquireLine_cases l s with ⟨-, hx⟩ | ⟨-, -, hx⟩ | ⟨-, -, hx⟩ <;> rw [hx]
  · exact ⟨⟨rfl, rfl, rfl, rfl⟩, rfl, rfl, rfl, rfl⟩
  · exact ⟨⟨rfl, rfl, rfl, rfl⟩, rfl, rfl, rfl, rfl⟩
  · rcases denyLine_cases { s with env := tookGrant s.env } with ⟨-, hx⟩ | ⟨-, hx⟩ <;> rw [hx] <;>
      exact ⟨⟨rfl, rfl, rfl, rfl⟩, rfl, rfl, rfl, rfl⟩

/-- What no instruction touches. -/
theorem exec_outside {i : Instr} {s t : State} (h : exec i s = .next t) : SameOutside s t := by
  have hi : ∀ op w f, SameOutside s (issue op w f s) := by
    intro op w f
    rcases issue_cases op w f s with ⟨-, hx⟩ | ⟨-, -, hx⟩ | ⟨-, -, hx⟩ <;> rw [hx] <;> exact ⟨rfl, rfl, rfl, rfl⟩
  cases i <;> cases h <;>
    first
      | exact hi _ _ _
      | exact (acquireLine_frame _ s).1
      | exact (releaseLine_frame _ s).1
      | exact ⟨rfl, rfl, rfl, rfl⟩
      | skip
  cases nextReady s.env <;> exact ⟨rfl, rfl, rfl, rfl⟩

end Sys2Proof.Machine
end

