-- ==== Sys2Proof/Tests/Slice0.lean ====
section
/-! SUPPORT. Tests: the well-formedness checks refuse what they should, words written out from the spec's tables decode,
each instruction does what 95_test_vectors.md says of it, and every statement's hypotheses are met by a state. -/

namespace Sys2Proof.Tests

open Sys2Proof Sys2Proof.Machine

set_option Elab.async false

/-! ### WellFormed: one ill-formed term for each check -/

/-- R72 clause 1: OP = 0x7 (95 §2). -/
theorem test_wf_reserved_opcode : wellFormedWord 0x00000007#32 = false ∧ opcodeDefined 0x00000007#32 = false := by decide
/-- R72 clause 2: RSVD ≠ 0 (95 §2). -/
theorem test_wf_reserved_field : wellFormedWord 0x00000010#32 = false ∧ reservedClear 0x00008003#32 = false := by decide
/-- R72 clause 3: IMM16 ≠ 0 with OP ≠ 5 (95 §2). -/
theorem test_wf_stray_immediate : wellFormedWord 0x00010003#32 = false ∧ immediateAllowed 0x00010006#32 = false := by
  decide
/-- The well-formed words of 95 §2. -/
theorem test_wf_words : [0x00000000#32, 0x00000006#32, 0x00300005#32, 0xFFFF0005#32, 0x80000005#32].all
    (fun w => wellFormedWord w) = true := by decide
/-- The reserved bytes of 95 §3: each UOPC with a LINE or an ARG it does not admit. -/
theorem test_wf_reserved_bytes :
    [0x04#8, 0x08#8, 0x30#8, 0x21#8, 0x50#8, 0x41#8, 0x18#8, 0x71#8, 0x60#8, 0x80#8, 0x91#8, 0x98#8, 0xB8#8, 0xA1#8,
      0xD8#8, 0xC1#8, 0xE8#8, 0xE1#8, 0xFF#8].all (fun b => !legalMicroOp b) = true := by decide
/-- A microprogram with one reserved byte is refused (40_line_ops.md R98). -/
theorem test_wf_microprogram : legalMicroprogram [0x20#8, 0x30#8] = false ∧ legalMicroprogram [0x20#8, 0x48#8] = true := by
  decide
/-- P1's parameters are well-formed. -/
theorem test_wf_example_params : exampleParams.wf = true := by decide +kernel
/-- BLOCK_BASE not aligned to 64. -/
theorem test_wf_block_base : ({ exampleParams with blockBase := 0x40000004 } : Params).wf = false := by decide +kernel
/-- GPIO_BASE not aligned to 4. -/
theorem test_wf_gpio_base : ({ exampleParams with gpioBase := 0x20200002 } : Params).wf = false := by decide +kernel
/-- Two lines on one pin. -/
theorem test_wf_distinct_pins :
    ({ exampleParams with pinClk := 27 } : Params).wf = false ∧ ({ exampleParams with pinClk := 22 } : Params).wf = false ∧
    ({ exampleParams with pinLatch := 22 } : Params).wf = false := by decide +kernel
/-- A line on a pin that is not there. -/
theorem test_wf_pin_exists :
    ({ exampleParams with pinClk := 54 } : Params).wf = false ∧ ({ exampleParams with pinLatch := 54 } : Params).wf = false ∧
    ({ exampleParams with pinData := 54 } : Params).wf = false := by decide +kernel
/-- F_TICK below 1 MHz, T_BUS_MAX above 1 µs. -/
theorem test_wf_rates :
    ({ exampleParams with fTick := 999999 } : Params).wf = false ∧
    ({ exampleParams with tBusMaxNs := 1001 } : Params).wf = false := by decide +kernel
/-- A misaligned register, a field or a bit past the register's end. -/
theorem test_wf_pin_map :
    ({ bcm2835Pin 17 with offFsel := 5 } : PinMap).wf = false ∧ ({ bcm2835Pin 17 with offSet := 0x1D } : PinMap).wf = false ∧
    ({ bcm2835Pin 17 with offClr := 0x2A } : PinMap).wf = false ∧ ({ bcm2835Pin 17 with offLev := 0x37 } : PinMap).wf = false ∧
    ({ bcm2835Pin 17 with fpos := 30 } : PinMap).wf = false ∧ ({ bcm2835Pin 17 with sbit := 32 } : PinMap).wf = false := by
  decide
/-- Two pins with one field, one bit, or fields that overlap. -/
theorem test_wf_apart :
    PinMap.apart (bcm2835Pin 17) (bcm2835Pin 17) = false ∧
    PinMap.apart (bcm2835Pin 17) { bcm2835Pin 18 with fpos := 19 } = false ∧
    PinMap.apart (bcm2835Pin 17) { bcm2835Pin 18 with sbit := 17 } = false ∧
    PinMap.apart (bcm2835Pin 17) (bcm2835Pin 18) = true := by decide
/-- A register of two kinds. -/
theorem test_wf_kinds : PinMap.kindsApart { bcm2835Pin 18 with offSet := 0x28 } (bcm2835Pin 17) = false := by decide
/-- A layout in which two pins share a field is refused, and so is one with fewer than three pins. -/
theorem test_wf_layout :
    ({ exampleParams with pins := bcm2835Pin 53 :: (List.range 54).map bcm2835Pin } : Params).wf = false ∧
    ({ exampleParams with pins := [bcm2835Pin 0, bcm2835Pin 1], pinClk := 0, pinLatch := 1, pinData := 1 } : Params).wf =
      false := by decide +kernel

/-! ### Decode: words and bytes written out from 30_encoding.md R71 and R77 -/

/-- Every command's word (95 §2). -/
theorem test_decode_commands :
    decode (.command 0x00000000#32) = .ok .nop ∧ decode (.command 0x00000001#32) = .ok .configure ∧
    decode (.command 0x00000002#32) = .ok .idle ∧ decode (.command 0x00000003#32) = .ok .poll ∧
    decode (.command 0x00000004#32) = .ok .decode ∧ decode (.command 0x00000006#32) = .ok .teardown ∧
    decode (.command 0x00300005#32) = .ok (.decodeImm 0x0030#16) ∧
    decode (.command 0x80000005#32) = .ok (.decodeImm 0x8000#16) := by decide
/-- The words of 95 §2 that are no command, each by its name. -/
theorem test_decode_illegal_words :
    decode (.command 0x00000007#32) = .error .reservedOpcode ∧ decode (.command 0x0000000F#32) = .error .reservedOpcode ∧
    decode (.command 0x00000010#32) = .error .reservedField ∧ decode (.command 0x0000FFF5#32) = .error .reservedField ∧
    decode (.command 0xFFFFFFFF#32) = .error .reservedField ∧ decode (.command 0x00010000#32) = .error .strayImmediate ∧
    decode (.command 0x00010006#32) = .error .strayImmediate := by decide
/-- Every micro-operation's byte, its fields written out: UOPC, LINE, ARG (95 §3). -/
theorem test_decode_micro_ops :
    decode (.microOp 0b00000000#8) = .ok .waitTLh ∧ decode (.microOp 0b00000001#8) = .ok .waitTLl ∧
    decode (.microOp 0b00000010#8) = .ok .waitTCl ∧ decode (.microOp 0b00000011#8) = .ok .waitTCh ∧
    decode (.microOp 0b00100000#8) = .ok .lsetClk ∧ decode (.microOp 0b00101000#8) = .ok .lsetLatch ∧
    decode (.microOp 0b01000000#8) = .ok .lclrClk ∧ decode (.microOp 0b01001000#8) = .ok .lclrLatch ∧
    decode (.microOp 0b01110000#8) = .ok .smplData ∧ decode (.microOp 0b10000001#8) = .ok .lcfgClkOut ∧
    decode (.microOp 0b10001001#8) = .ok .lcfgLatchOut ∧ decode (.microOp 0b10010000#8) = .ok .lcfgDataIn ∧
    decode (.microOp 0b10100000#8) = .ok .lacqClk ∧ decode (.microOp 0b10101000#8) = .ok .lacqLatch ∧
    decode (.microOp 0b10110000#8) = .ok .lacqData ∧ decode (.microOp 0b11000000#8) = .ok .lrelClk ∧
    decode (.microOp 0b11001000#8) = .ok .lrelLatch ∧ decode (.microOp 0b11010000#8) = .ok .lrelData ∧
    decode (.microOp 0b11100000#8) = .ok .emit := by decide
/-- Reserved bytes are refused by name (30_encoding.md R78). -/
theorem test_decode_reserved_bytes :
    [0x04#8, 0x30#8, 0x80#8, 0x18#8, 0x71#8, 0xE8#8, 0x98#8, 0xFF#8].all
      (fun b => decide (decode (.microOp b) = .error .reservedMicroOp)) = true := by decide
/-- The table's rows, and where the next step finds them. -/
theorem test_table_rows :
    decodeTableWord 32 0x00000003 = some .poll ∧ decodeTableWord 8 0x70 = some .smplData ∧
    decodeTableWord 8 0x30 = none ∧
    (State.reset.withFetchWord 32 0x00000001).inputs =
      [.access { write := true, bytes := 4, addr := 0x40000000, data := 0x00000001#32 }] ∧
    fetch (State.reset.withFetchWord 8 0x8A) = none ∧ fetch (State.reset.withFetchWord 8 0x89) = some 0x89#8 ∧
    fetch (State.reset.withFetchWord 8 0xD0) = some 0xD0#8 := by decide

/-! ### Small states on the example board P1 -/

/-- READY, with the three lines held. -/
def ready : Srcp := { Srcp.reset with lstate := .ready, ownedClk := true, ownedLatch := true, ownedData := true }

/-- A command in progress at a micro-operation. -/
def during (op : Op) (upc : BitVec 7) (r : Srcp) : Srcp := { r with busy := true, cur := op, upc := upc }

/-- An environment that grants, that has its sink, and whose other answers are given. -/
def answers (levels : List Bool) (waits : List Nat) (readys : List Bool) : Env :=
  { grants := [true, true, true], sinkOks := [true], levels := levels, waits := waits, readys := readys, asked := 0 }

/-- The board with CLK and LATCH outputs, DATA an input, clock high and latch low. -/
def board (r : Srcp) (e : Env) : State :=
  { State.reset with
    srcp := r
    gpio :=
      { fsel := [(0x20200004, 0x00#8), (0x20200005, 0x00#8), (0x20200006, 0x20#8), (0x20200007, 0x00#8),
          (0x20200008, 0x00#8), (0x20200009, 0x00#8), (0x2020000A, 0x20#8), (0x2020000B, 0x00#8)]
        out := [(17, true), (27, false)] }
    env := e }

/-- The board with nothing scripted. -/
def idleBoard (r : Srcp) : State := board r (answers [] [] [])

/-- STATUS after an instruction. -/
def statusAfter (i : Instr) (s : State) : Option Word :=
  match exec i s with
  | .next t => some (statusWord t.srcp)
  | _ => none

/-- SRCP's registers after an instruction. -/
def srcpAfter (i : Instr) (s : State) : Option Srcp :=
  match exec i s with
  | .next t => some t.srcp
  | _ => none

/-- The GPIO register file after an instruction. -/
def gpioAfter (i : Instr) (s : State) : Option Gpio :=
  match exec i s with
  | .next t => some t.gpio
  | _ => none

/-- SRCP's registers after one step. -/
def srcpAfterStep (s : State) : Option Srcp :=
  match step s with
  | .next t => some t.srcp
  | _ => none

/-! ### Commands (95 §5 to §8) -/

/-- NOP leaves STATUS unchanged in READY and in FAILED with ERR_RESOURCE set (95 §5.4). -/
theorem test_nop : statusAfter .nop (idleBoard ready) = some 0x00000004#32 ∧
    statusAfter .nop (idleBoard { Srcp.reset with lstate := .failed, errResource := true }) = some 0x00000108#32 := by
  decide +kernel
/-- A NOP while BUSY raises ERR_BUSY: 95 §8.1, a POLL in READY with RAW_VALID = 1. -/
theorem test_nop_busy :
    statusAfter .nop (idleBoard (during .poll 4#7 { ready with rawValid := true })) = some 0x00000815#32 := by
  decide +kernel
/-- CONFIGURE in FAILED is rejected, ERRCMD = 0x00000001 (95 §5.1). -/
theorem test_configure_failed :
    srcpAfter .configure (idleBoard { Srcp.reset with lstate := .failed }) =
      some { Srcp.reset with lstate := .failed, errState := true, errcmd := 0x00000001#32 } := by decide +kernel
/-- CONFIGURE's repeat path begins at UPC 3, its acquiring path at UPC 0 (10_state.md R35). -/
theorem test_configure_paths :
    srcpAfter .configure (idleBoard ready) = some (during .configure 3#7 ready) ∧
    srcpAfter .configure State.reset = some (during .configure 0#7 Srcp.reset) := by decide +kernel
/-- IDLE in TORN_DOWN and in FAILED with ERR_RESOURCE set (95 §5.2). -/
theorem test_idle_rejected :
    statusAfter .idle (idleBoard { Srcp.reset with lstate := .tornDown }) = some 0x00001006#32 ∧
    statusAfter .idle (idleBoard { Srcp.reset with lstate := .failed, errResource := true }) = some 0x00001108#32 := by
  decide +kernel
/-- POLL in CONFIGURED (95 §6). -/
theorem test_poll_rejected :
    statusAfter .poll (idleBoard { ready with lstate := .configured }) = some 0x00001002#32 := by decide +kernel
/-- POLL's acceptance clears SHIFT (42_poll.md R110). -/
theorem test_poll_accepted :
    srcpAfter .poll (idleBoard { ready with shift := 0xFFFF#16 }) = some (during .poll 0#7 ready) := by decide +kernel
/-- DECODE in READY with RAW_VALID = 0 (95 §7.2). -/
theorem test_decode_rejected : statusAfter .decode (idleBoard ready) = some 0x00001004#32 := by decide +kernel
/-- DECODE latches RAW (43_decode.md R137). -/
theorem test_decode_accepted :
    srcpAfter .decode (idleBoard { ready with raw := 0x0101#16, rawValid := true }) =
      some (during .decode 0#7 { ready with raw := 0x0101#16, rawValid := true, evtSrc := 0x0101#16 }) := by
  decide +kernel
/-- DECODE_IMM in TORN_DOWN, and in CONFIGURED where it latches its operand (95 §7.2). -/
theorem test_decode_imm :
    statusAfter (.decodeImm 0x0030#16) (idleBoard { Srcp.reset with lstate := .tornDown }) = some 0x00001006#32 ∧
    srcpAfter (.decodeImm 0x0030#16) (idleBoard { ready with lstate := .configured }) =
      some (during .decodeImm 0#7 { ready with lstate := .configured, evtSrc := 0x0030#16 }) := by decide +kernel
/-- TEARDOWN in FAILED with ERR_RESOURCE set ends at once and keeps the error bit (95 §5.3). -/
theorem test_teardown_failed :
    statusAfter .teardown (idleBoard { Srcp.reset with lstate := .failed, errResource := true }) =
      some 0x00000106#32 := by decide +kernel
/-- TEARDOWN in READY begins its microprogram (41_pin_config.md R103). -/
theorem test_teardown_ready :
    srcpAfter .teardown (idleBoard ready) = some (during .teardown 0#7 ready) := by decide +kernel

/-! ### Micro-operations (95 §4) -/

/-- WAIT T_LH loads 12, 18 or 13 ticks at 1 MHz, and never 11 (95 §4.3). -/
theorem test_wait_tlh : [12, 18, 13].map (fun n => waitTicks exampleParams .tLH n) = [12, 18, 13] ∧
    waitTicks exampleParams .tLH 11 = 12 := by decide +kernel
/-- WAIT T_CL never holds for 13 ticks at 1 MHz (95 §4.3). -/
theorem test_wait_tcl : waitTicks exampleParams .tCL 6 = 6 ∧ waitTicks exampleParams .tCL 13 = 12 := by decide +kernel
/-- WAIT T_LL and T_CH move UPC, and leave DCNT at 0 (40_line_ops.md R96). -/
theorem test_wait_moves_upc :
    srcpAfter .waitTLl (board (during .poll 3#7 ready) (answers [] [6] [])) = some (during .poll 4#7 ready) ∧
    srcpAfter .waitTCh (board (during .poll 8#7 ready) (answers [] [12] [])) = some (during .poll 9#7 ready) := by
  decide +kernel
/-- LSET CLK writes 0x00020000 at 0x1C, LCLR LATCH 0x08000000 at 0x28 (95 §4.1). -/
theorem test_set_clear_accesses :
    setAddr exampleParams 17 = 0x2020001C ∧ pinBit exampleParams 17 = 0x00020000#32 ∧
    clrAddr exampleParams 27 = 0x20200028 ∧ pinBit exampleParams 27 = 0x08000000#32 := by decide +kernel
/-- LSET drives its pin high and no other. -/
theorem test_lset :
    (gpioAfter .lsetLatch (idleBoard (during .poll 0#7 ready))).map Gpio.out = some [(17, true), (27, true)] ∧
    (gpioAfter .lsetClk (idleBoard (during .idle 0#7 ready))).map Gpio.out = some [(17, true), (27, false)] := by
  decide +kernel
/-- LCLR drives its pin low and no other. -/
theorem test_lclr :
    (gpioAfter .lclrClk (idleBoard (during .poll 5#7 ready))).map Gpio.out = some [(17, false), (27, false)] ∧
    (gpioAfter .lclrLatch (idleBoard (during .idle 1#7 ready))).map Gpio.out = some [(17, true), (27, false)] := by
  decide +kernel
/-- SMPL at IDX 3: level 0 gives SHIFT[3] = 1 (40_line_ops.md R95), level 1 gives 0 (95 §4.2). -/
theorem test_smpl :
    (srcpAfter .smplData (board (during .poll 19#7 ready) (answers [false] [] []))).map Srcp.shift = some 0x0008#16 ∧
    (srcpAfter .smplData (board (during .poll 19#7 { ready with shift := 0x000F#16 }) (answers [true] [] []))).map
      Srcp.shift = some 0x0007#16 := by decide +kernel
/-- LCFG's field writes (95 §4.1). -/
theorem test_lcfg_field :
    setField3 0x00000000#32 21 (dirCode .output) = 0x00200000#32 ∧
    setField3 0xFFFFFFFF#32 21 (dirCode .output) = 0xFF3FFFFF#32 ∧
    setField3 0xFFFFFFFF#32 6 (dirCode .input) = 0xFFFFFE3F#32 ∧
    setField3 0x002001C7#32 6 (dirCode .input) = 0x00200007#32 := by decide
/-- LCFG CLK, OUT reads and writes at 0x04, LCFG LATCH, OUT and LCFG DATA, IN at 0x08 (95 §4.1). -/
theorem test_lcfg_address :
    fselAddr exampleParams 17 = 0x20200004 ∧ (pinMap exampleParams 17).fpos = 21 ∧
    fselAddr exampleParams 27 = 0x20200008 ∧ (pinMap exampleParams 27).fpos = 21 ∧
    fselAddr exampleParams 22 = 0x20200008 ∧ (pinMap exampleParams 22).fpos = 6 := by decide +kernel
/-- LCFG LATCH, OUT from 0x000001C7 writes 0x002001C7, and LCFG DATA, IN after it 0x00200007 (95 §4.1). -/
theorem test_lcfg :
    let s : State := { idleBoard (during .configure 4#7 ready) with
      gpio :=
        { fsel := [(0x20200008, 0xC7#8), (0x20200009, 0x01#8), (0x2020000A, 0x00#8), (0x2020000B, 0x00#8)]
          out := [] } }
    (gpioAfter .lcfgLatchOut s).map (fun g => readWord g.fsel 0x20200008) = some 0x002001C7#32 ∧
    (gpioAfter .lcfgDataIn s).map (fun g => readWord g.fsel 0x20200008) = some 0x00000007#32 := by decide +kernel
/-- LACQ granted (95 §4.4). -/
theorem test_lacq_granted :
    srcpAfter .lacqClk (idleBoard (during .configure 0#7 Srcp.reset)) =
      some (during .configure 1#7 { Srcp.reset with ownedClk := true }) ∧
    srcpAfter .lacqData (idleBoard (during .configure 2#7 { ready with ownedData := false })) =
      some (during .configure 3#7 ready) := by decide +kernel
/-- LACQ denied at CLK ends CONFIGURE with STATUS 0x00000108 (95 §5.1 row 2); denied at LATCH, with CLK held, it leaves
LREL CLK to run, and that ends it with STATUS 0x00000108 and nothing owned (row 3). -/
theorem test_lacq_denied :
    let e := { answers [] [] [] with grants := [false] }
    let r := { Srcp.reset with ownedClk := true }
    let f := board (during .configure 2#7 r) e
    statusAfter .lacqClk (board (during .configure 0#7 Srcp.reset) e) = some 0x00000108#32 ∧
    srcpAfter .lacqLatch (board (during .configure 1#7 r) e) = some f.srcp ∧ f.srcp.upc = 2#7 ∧ statusWord f.srcp = 0x00000001#32 ∧
    fetch f = some 0xC0#8 ∧ statusAfter .lrelClk f = some 0x00000108#32 ∧
    (srcpAfter .lrelClk f).map Srcp.ownedClk = some false := by decide +kernel
/-- No sink, asked at UPC 3: LREL CLK runs at once, and the last LREL ends CONFIGURE with STATUS 0x00000208 and ERRCMD
0x00000001 (95 §5.1 row 5). With a sink LCFG CLK runs, and on the repeat path too, where no sink is asked. -/
theorem test_no_sink :
    let e := { answers [] [] [] with sinkOks := [false] }
    let r := { ready with lstate := .unconfigured }
    let f := board (during .configure 3#7 { Srcp.reset with ownedData := true }) e
    srcpAfterStep (board (during .configure 3#7 r) e) = some (during .configure 3#7 { r with ownedClk := false }) ∧
    fetch f = some 0xD0#8 ∧ statusAfter .lrelData f = some 0x00000208#32 ∧
    (srcpAfter .lrelData f).map Srcp.errcmd = some 0x00000001#32 ∧
    fetch (board (during .configure 3#7 r) (answers [] [] [])) = some 0x81#8 ∧
    fetch (board (during .configure 3#7 ready) e) = some 0x81#8 := by decide +kernel
/-- LREL relinquishes; after the last one TEARDOWN ends with STATUS = 0x00000006 (41_pin_config.md R103). -/
theorem test_lrel :
    srcpAfter .lrelClk (idleBoard (during .teardown 2#7 ready)) =
      some (during .teardown 3#7 { ready with ownedClk := false }) ∧
    srcpAfter .lrelLatch (idleBoard (during .teardown 3#7 ready)) =
      some (during .teardown 4#7 { ready with ownedLatch := false }) ∧
    statusAfter .lrelData (idleBoard (during .teardown 4#7 { ready with rawValid := true })) = some 0x00000006#32 := by
  decide +kernel
/-- EMIT at UPC 4 with EVT_SRC = 0x0000 offers 0x4400 (43_decode.md R136), and stays while SINK is not ready. -/
theorem test_emit :
    (match exec .emit (board (during .decode 4#7 ready) (answers [] [] [true])) with
      | .next t => decide (t.delivered = [0x4400#16] ∧ t.srcp.upc = 5#7)
      | _ => false) = true ∧
    srcpAfter .emit (board (during .decode 4#7 ready) (answers [] [] [false])) = some (during .decode 4#7 ready) := by
  decide +kernel

/-! ### Events and the host window -/

/-- Words of a decode (95 §7): 0x0000, 0x0030, 0xFFFF and 0xAAAA. -/
theorem test_decode_words :
    decodeWords 0x0000#16 = [0x0000#16, 0x0100#16, 0x0200#16, 0x0300#16, 0x4400#16, 0x4600#16, 0x0800#16, 0x0900#16,
      0x0A00#16, 0x0B00#16, 0x8000#16] ∧
    decodeWords 0x0030#16 = [0x0000#16, 0x0100#16, 0x0200#16, 0x0300#16, 0x4403#16, 0x4600#16, 0x0800#16, 0x0900#16,
      0x0A00#16, 0x0B00#16, 0x8000#16] ∧
    decodeWords 0xFFFF#16 = [0x0001#16, 0x0101#16, 0x0201#16, 0x0301#16, 0x4403#16, 0x4603#16, 0x0801#16, 0x0901#16,
      0x0A01#16, 0x0B01#16, 0x8000#16] ∧
    decodeWords 0xAAAA#16 = [0x0000#16, 0x0101#16, 0x0200#16, 0x0301#16, 0x4401#16, 0x4601#16, 0x0800#16, 0x0901#16,
      0x0A00#16, 0x0B01#16, 0x8000#16] := by decide +kernel
/-- HOST's constants (10_state.md R27 to R29) and a reserved offset (R31). -/
theorem test_host_constants :
    [0x00, 0x0C, 0x10, 0x14, 0x1C, 0x3C].map (fun off => hostRead ready off) =
      [0x00000000#32, 0x000112E1#32, 0x00190001#32, 0x00000728#32, 0x00000000#32, 0x00000000#32] := by decide
/-- POLL's completion: RAW <- SHIFT and STATUS = 0x00000014 (95 §6). -/
theorem test_poll_completion :
    statusAfter .waitTCh (board (during .poll 83#7 { ready with shift := 0xF101#16 }) (answers [] [6] [])) =
      some 0x00000014#32 := by decide +kernel
/-- A byte access gets a bus error; an address past the window is not SRCP's. -/
theorem test_bus_error :
    nextTurn { State.reset with inputs := [.access { write := true, bytes := 1, addr := 0x40000000, data := 1#32 }] } =
      .settled { State.reset with responses := [.busError] } ∧
    nextTurn { State.reset with inputs := [.access { write := true, bytes := 4, addr := 0x40000040, data := 1#32 }] } =
      .settled { State.reset with responses := [.notSelected] } := by decide
/-- The pseudo-instructions of 30_encoding.md R83. -/
theorem test_pseudo_instructions :
    initProgram exampleParams = [hostWord exampleParams 0x00 0x00000001#32, .waitIdle,
      hostWord exampleParams 0x00 0x00000002#32, .waitIdle] ∧
    clrerrProgram exampleParams = [hostWord exampleParams 0x04 0x00001F00#32] := by decide +kernel

/-! ### A witness for the hypotheses of each statement -/

/-- A step answers a next state. -/
theorem step_of_turn {s t : State} (h : nextTurn s = .settled t) : step s = .next t := by
  rw [step, h]; rfl

/-- A POLL in its first sample cycle fits together. -/
theorem lifecycle_mid_poll : LifecycleInv (during .poll 6#7 ready) :=
  ⟨fun _ => (by decide : (6#7).toNat < (microprogram .poll).length), fun _ => rfl,
    fun _ l => (by cases l <;> rfl), fun h => (by cases h), rfl, fun h => (by cases h)⟩

/-- A CONFIGURE that was denied LATCH, with CLK still to be relinquished, fits together. -/
theorem lifecycle_releasing : LifecycleInv (during .configure 2#7 { Srcp.reset with ownedClk := true }) :=
  ⟨fun _ => (by decide : (2#7).toNat < (microprogram .configure).length),
    fun _ => ⟨fun h => (by cases h), fun h => (by cases h)⟩, fun h => (by cases h), fun h => (by cases h), rfl,
    fun _ => ⟨by decide, fun l => by cases l <;> decide⟩⟩

/-- In that POLL the lines are as the lifecycle says: the clock is low. -/
theorem lines_mid_poll : LinesInv { idleBoard (during .poll 6#7 ready) with
    gpio := { (idleBoard ready).gpio with out := [(17, false), (27, false)] } } :=
  ⟨by decide +kernel, by decide +kernel, by intro l; cases l <;> decide +kernel⟩

/-- 10_state.md R36 at both ends of its range. -/
theorem witness_PollMicroprogramIsTheRomImage : idx 4#7 = 0 ∧ idx 83#7 = 15 ∧ 4 ≤ (4#7).toNat := by decide

theorem witness_ResetAbortsAndKeepsTheOutside :
    ({ idleBoard (during .poll 5#7 ready) with inputs := [.resetAssert] } : State).inputs = .resetAssert :: [] := rfl

theorem witness_HostAccessWhileResetIsHeld :
    (let s : State := { State.reset with resetLine := true, inputs := [hostFetch exampleParams 60] }
     s.resetLine = true ∧ 60 < 64 ∧ 60 % 4 = 0 ∧ s.inputs = hostFetch s.params 60 :: []) ∧
    (let s : State := { State.reset with resetLine := true, inputs := [hostWord exampleParams 0 3#32] }
     s.resetLine = true ∧ 0 < 64 ∧ 0 % 4 = 0 ∧ s.inputs = hostWord s.params 0 3#32 :: []) := by decide +kernel

theorem witness_NothingRunsBetweenCommands : State.reset.srcp.busy = false ∧ State.reset.inputs = [] := by decide

/-- The first and the last micro-operation of POLL and CONFIGURE's repeat path, with each of the three ways SEQ gets its
turn; the sink to be asked; a release step. -/
theorem witness_SeqTurnRunsTheFetchedMicroOp :
    let due (inputs : List Input) (r : Srcp) (b : Byte) (i : Instr) : Bool :=
      let s : State := { idleBoard r with inputs := inputs }
      s.srcp.busy && !s.resetLine && (microprogram s.srcp.cur)[s.srcp.upc.toNat]? == some b &&
        decide (decode (.microOp b) = .ok i)
    let r := { ready with lstate := .unconfigured }
    let u := during .configure 3#7 { r with ownedClk := false }
    ([[], [.waitIdle], [.seq]] : List (List Input)).all (fun inputs =>
      due inputs (during .poll 0#7 ready) 0x28#8 .lsetLatch && due inputs (during .poll 83#7 ready) 0x03#8 .waitTCh &&
        due inputs (during .configure 3#7 ready) 0x81#8 .lcfgClkOut) = true ∧
    ((during .configure 3#7 r).cur = .configure ∧ linesHeld r.lstate = false ∧ (∀ l, owned r l = true) ∧
      decode (.microOp 0x81#8) = .ok .lcfgClkOut ∧ decode (.microOp 0xC0#8) = .ok .lrelClk) ∧
    (u.cur = .configure ∧ linesHeld u.lstate = false ∧ (∃ l, lineIndex l < u.upc.toNat ∧ owned u l = false) ∧
      u.ownedClk = false ∧ u.ownedLatch = true ∧ decode (.microOp 0xC8#8) = .ok .lrelLatch) :=
  ⟨by decide +kernel, ⟨rfl, rfl, fun l => by cases l <;> rfl, by decide, by decide⟩,
    rfl, rfl, ⟨.clk, by decide, rfl⟩, rfl, rfl, by decide⟩

theorem witness_CommandWriteRunsTheDecodedCommand :
    let s : State := { State.reset with inputs := [hostWord exampleParams 0x00 0x00300005#32] }
    s.resetLine = false ∧ s.inputs = hostWord s.params 0x00 0x00300005#32 :: [] ∧
      decode (.command 0x00300005#32) = .ok (.decodeImm 0x0030#16) := by decide +kernel

theorem witness_NopCompletesAtOnce : State.reset.srcp.busy = false := rfl

theorem witness_ConfigureAccepted :
    (Srcp.reset.busy = false ∧ Srcp.reset.lstate = .unconfigured) ∧ (ready.busy = false ∧ ready.lstate = .ready) := by
  decide

theorem witness_IdleAccepted : ready.busy = false ∧ ready.lstate = .ready := by decide

theorem witness_PollAccepted : ready.busy = false ∧ ready.lstate = .ready := by decide

theorem witness_DecodeAccepted :
    let r := { ready with rawValid := true }
    r.busy = false ∧ r.lstate = .ready ∧ r.rawValid = true := by decide

theorem witness_DecodeImmAccepted :
    let r := { ready with lstate := .configured }
    r.busy = false ∧ r.lstate = .configured := by decide

theorem witness_TeardownAccepted :
    (ready.busy = false ∧ ready.lstate = .ready) ∧
    (let r := { Srcp.reset with lstate := .failed }
     r.busy = false ∧ r.lstate = .failed) := by decide

theorem witness_BusyRejectsEveryWord :
    let s : State := { idleBoard (during .poll 5#7 ready) with inputs := [hostWord exampleParams 0x00 0x00000007#32] }
    s.resetLine = false ∧ s.srcp.busy = true ∧ s.inputs = hostWord s.params 0x00 0x00000007#32 :: [] := by
  decide +kernel

/-- One word for each clause of R72 that it breaks. -/
theorem witness_IllegalWordRaisesErrIllegal :
    [0x00000007#32, 0x00000010#32, 0x00010003#32].all (fun w =>
      let s : State := { State.reset with inputs := [hostWord exampleParams 0x00 w] }
      decide (s.resetLine = false ∧ s.srcp.busy = false ∧ s.inputs = hostWord s.params 0x00 w :: [] ∧
        ¬ ((w.extractLsb' 0 4).toNat ≤ 6 ∧ (w.extractLsb' 4 12).toNat = 0 ∧
          ((w.extractLsb' 16 16).toNat = 0 ∨ (w.extractLsb' 0 4).toNat = 5)))) = true := by decide +kernel

/-- One command out of place for each clause; DECODE also in READY without a sample. -/
theorem witness_OutOfPlaceCommandRaisesErrState :
    (LState.failed = .failed ∧ encode .configure = .command 0x00000001#32) ∧
    (Srcp.reset.lstate ∈ [LState.unconfigured, .tornDown, .failed] ∧ encode .idle = .command 0x00000002#32) ∧
    (Srcp.reset.lstate ∈ [LState.unconfigured, .configured, .tornDown, .failed] ∧
      encode .poll = .command 0x00000003#32) ∧
    (ready.busy = false ∧ ready.rawValid = false ∧ encode .decode = .command 0x00000004#32) ∧
    (Srcp.reset.lstate ∈ [LState.unconfigured, .tornDown, .failed] ∧
      encode (.decodeImm 0x0030#16) = .command 0x00300005#32) := by decide

/-- UPC inside POLL, and at the end of each microprogram. -/
theorem witness_SeqMovesOnOrCompletes :
    ((during .poll 82#7 ready).upc.toNat + 1 < (microprogram .poll).length) ∧
    ((microprogram .configure).length ≤ (5#7).toNat + 1) ∧ ((microprogram .idle).length ≤ (1#7).toNat + 1) ∧
    ((microprogram .poll).length ≤ (83#7).toNat + 1) ∧ ((microprogram .decode).length ≤ (10#7).toNat + 1) ∧
    ((microprogram .decodeImm).length ≤ (10#7).toNat + 1) ∧
    ((microprogram .teardown).length ≤ (4#7).toNat + 1) := by decide

theorem witness_LsetAndLclrDriveOnlyTheirPin : (idleBoard (during .poll 0#7 ready)).params.wf = true := test_wf_example_params

theorem witness_LcfgWritesOnlyItsField : (idleBoard (during .configure 3#7 ready)).params.wf = true := test_wf_example_params

/-- Level(DATA) as a draw and as the reference controller's bit. -/
theorem witness_SmplStoresTheInvertedLevel :
    (idleBoard (during .poll 4#7 ready)).params.wf = true ∧ (idleBoard (during .poll 4#7 ready)).ctrl.attached = false ∧
    (let s : State := { idleBoard (during .poll 4#7 ready) with
      ctrl := { btn := 0xF101#16, creg := 0xF101#16, k := 15, attached := true } }
     s.ctrl.attached = true ∧ s.ctrl.k ≤ 15 ∧ pinFsel s.params s.gpio s.params.pinData ≠ 1#3) :=
  ⟨test_wf_example_params, rfl, by decide +kernel⟩

/-- A draw at each end of T_LH's range at 1 MHz. -/
theorem witness_WaitHoldsWithinItsRange :
    [12, 18].all (fun n =>
      let s := board (during .poll 1#7 ready) (answers [] [n] [])
      decide (12 * s.params.fTick ≤ nextWait s.env * 1000000 ∧
        nextWait s.env * 1000000 < 18 * s.params.fTick + 1000000)) = true := by decide +kernel

theorem witness_LacqOfAGrantedLine :
    (ready.ownedClk = true ∧ ready.ownedLatch = true ∧ ready.ownedData = true) ∧
    (let s := idleBoard (during .configure 0#7 Srcp.reset)
     s.srcp.ownedClk = false ∧ s.srcp.ownedLatch = false ∧ s.srcp.ownedData = false ∧ nextGrant s.env = true) := by
  decide

/-- CLK denied; DATA denied; the release steps after DATA was denied. -/
theorem witness_LacqOfADeniedLineFailsConfigure :
    let s := board (during .configure 0#7 Srcp.reset) { answers [] [] [] with grants := [false] }
    let r := { Srcp.reset with ownedClk := true, ownedLatch := true }
    let u := board (during .configure 2#7 r) s.env
    let v := board (during .configure 3#7 r) s.env
    ((∀ m, owned s.srcp m = false) ∧ nextGrant s.env = false) ∧
    (owned u.srcp .data = false ∧ nextGrant u.env = false ∧ ∃ m, owned u.srcp m = true) ∧
    (v.inputs = [] ∧ v.resetLine = false ∧ v.srcp.busy = true ∧ v.srcp.cur = .configure ∧
      linesHeld v.srcp.lstate = false ∧ (∃ l, lineIndex l < v.srcp.upc.toNat ∧ owned v.srcp l = false) ∧
      v.srcp.upc = 3#7 ∧ v.srcp.ownedData = false ∧ ∃ m, owned v.srcp m = true) :=
  ⟨⟨fun m => by cases m <;> rfl, rfl⟩, ⟨rfl, rfl, .clk, rfl⟩, rfl, rfl, rfl, rfl, rfl, ⟨.data, by decide, rfl⟩, rfl, rfl,
    .clk, rfl⟩

theorem witness_AbsentSinkFailsConfigure :
    let s := board (during .configure 3#7 { ready with lstate := .tornDown }) { answers [] [] [] with sinkOks := [false] }
    s.inputs = [] ∧ s.resetLine = false ∧ s.srcp.busy = true ∧ s.srcp.cur = .configure ∧
      linesHeld s.srcp.lstate = false ∧ s.srcp.upc = 3#7 ∧ (∀ m, owned s.srcp m = true) ∧ nextSinkOk s.env = false :=
  ⟨rfl, rfl, rfl, rfl, rfl, rfl, fun m => by cases m <;> rfl, rfl⟩

/-- LREL in TEARDOWN; a release step with another after it, and a last one. -/
theorem witness_LrelRelinquishesItsLine :
    let r := during .configure 3#7 { ready with lstate := .unconfigured }
    let u := during .configure 2#7 { Srcp.reset with ownedClk := true }
    ((during .teardown 2#7 ready).cur ≠ .configure) ∧
    (r.cur = .configure ∧ ∃ m, m ≠ .clk ∧ owned r m = true) ∧
    (u.cur = .configure ∧ ∀ m, m ≠ .clk → owned u m = false) :=
  ⟨by decide, ⟨rfl, .data, by decide, rfl⟩, rfl, fun m h => by cases m <;> first | rfl | exact absurd rfl h⟩

theorem witness_EmitTransfersWhenTheSinkIsReady :
    nextReady (answers [] [] [true]) = true ∧ nextReady (answers [] [] [false]) = false := by decide

/-- The words at the ends of each clause's range of k (43_decode.md R134), for r = 0x0909. -/
theorem witness_EventWordsAreTheFields :
    [0, 3, 4, 5, 6, 9, 10].map (fun k => evword 0x0909#16 k) =
      [0x0001#16, 0x0301#16, 0x4400#16, 0x4600#16, 0x0801#16, 0x0B01#16, 0x8000#16] := by decide +kernel

theorem witness_DecodeHasItsShape :
    (decodeEvents 0x0010#16)[0]? = some (.key .x false) ∧
    (decodeEvents 0x0010#16)[4]? = some (.axis .axisY .negative) ∧ (decodeEvents 0x0010#16)[10]? = some .sync := by
  decide +kernel

theorem witness_StatusWriteClearsErrorBits :
    let s : State := { idleBoard { ready with errState := true } with
      inputs := [hostWord exampleParams 0x04 0x00001000#32] }
    s.resetLine = false ∧ s.inputs = hostWord s.params 0x04 0x00001000#32 :: [] := by decide +kernel

/-- A read at each end of the window. -/
theorem witness_HostReadsHaveNoSideEffect :
    [0, 60].all (fun off =>
      let s : State := { idleBoard ready with inputs := [hostFetch exampleParams off] }
      decide (s.resetLine = false ∧ off < 64 ∧ off % 4 = 0 ∧ s.inputs = hostFetch s.params off :: [])) = true := by
  decide +kernel

/-- A write at each end of its range, a read at each end of its range. -/
theorem witness_OtherOffsetsIgnoreWritesAndReservedReadZero :
    [8, 60].all (fun off =>
      let s : State := { idleBoard ready with inputs := [hostWord exampleParams off 1#32] }
      decide (off < 64 ∧ off % 4 = 0 ∧ 8 ≤ off ∧ s.inputs = hostWord s.params off 1#32 :: [])) = true ∧
    [0x1C, 0x3C].all (fun off =>
      let s : State := { idleBoard ready with inputs := [hostFetch exampleParams off] }
      decide (off < 64 ∧ off % 4 = 0 ∧ 0x1C ≤ off ∧ s.inputs = hostFetch s.params off :: [])) = true := by
  decide +kernel

/-- A byte, a halfword and a doubleword at CMD, and words off their alignment at both ends of the window. -/
theorem witness_BusErrorChangesNothing :
    [(1, 0), (2, 0), (8, 0), (4, 1), (4, 63)].all (fun (p : Nat × Nat) =>
      let a : HostAccess := { write := true, bytes := p.1, addr := exampleParams.blockBase + p.2, data := 1#32 }
      let s : State := { State.reset with inputs := [.access a] }
      decide (s.params.blockBase ≤ a.addr ∧ a.addr < s.params.blockBase + 64 ∧
        (a.bytes ≠ 4 ∨ (a.addr - s.params.blockBase) % 4 ≠ 0) ∧ s.inputs = .access a :: [])) = true := by
  decide +kernel

theorem witness_ConfigureRunConfiguresTheLines :
    let s := idleBoard (during .configure 0#7 Srcp.reset)
    let u := idleBoard (during .configure 3#7 ready)
    (u.params.wf = true ∧ u.inputs = [] ∧ u.resetLine = false ∧ u.srcp.busy = true ∧
      u.srcp.cur = .configure ∧ u.srcp.upc = 3#7 ∧ u.srcp.lstate = .ready) ∧
    (s.params.wf = true ∧ s.inputs = [] ∧ s.resetLine = false ∧ s.srcp.busy = true ∧
      s.srcp.cur = .configure ∧
      s.srcp.upc = 0#7 ∧ s.srcp.lstate = .unconfigured ∧ nextGrant s.env = true ∧
      nextGrant (tookGrant s.env) = true ∧ nextGrant (tookGrant (tookGrant s.env)) = true ∧
      nextSinkOk (tookGrant (tookGrant (tookGrant s.env))) = true) ∧
    ∀ l, owned s.srcp l = false :=
  ⟨⟨test_wf_example_params, by decide +kernel⟩, ⟨test_wf_example_params, by decide +kernel⟩,
    fun l => by cases l <;> rfl⟩

theorem witness_IdleRunReachesTheIdleLevels :
    let s := idleBoard (during .idle 0#7 { ready with lstate := .configured })
    s.params.wf = true ∧ s.inputs = [] ∧ s.resetLine = false ∧ s.srcp.busy = true ∧ s.srcp.cur = .idle ∧
      s.srcp.upc = 0#7 := ⟨test_wf_example_params, by decide +kernel⟩

theorem witness_TeardownRunLeavesTheOutputsLow :
    let s := idleBoard (during .teardown 0#7 ready)
    s.params.wf = true ∧ s.inputs = [] ∧ s.resetLine = false ∧ s.srcp.busy = true ∧ s.srcp.cur = .teardown ∧
      s.srcp.upc = 0#7 := ⟨test_wf_example_params, by decide +kernel⟩

theorem witness_PollRunReturnsTheSample :
    let s := idleBoard (during .poll 0#7 ready)
    s.params.wf = true ∧ s.inputs = [] ∧ s.resetLine = false ∧ s.srcp.busy = true ∧ s.srcp.cur = .poll ∧
      s.srcp.upc = 0#7 ∧ s.ctrl.attached = false :=
  ⟨test_wf_example_params, by decide +kernel⟩

theorem witness_PollReturnsTheButtonsOfTheReferenceController :
    let s : State := { idleBoard (during .poll 0#7 ready) with
      ctrl := { btn := 0xF101#16, creg := 0x0000#16, k := 0, attached := true } }
    s.params.wf = true ∧ s.inputs = [] ∧ s.resetLine = false ∧ s.srcp.busy = true ∧ s.srcp.cur = .poll ∧
      s.srcp.upc = 0#7 ∧ s.ctrl.attached = true ∧ pinFsel s.params s.gpio s.params.pinClk = 1#3 ∧
      pinFsel s.params s.gpio s.params.pinLatch = 1#3 ∧ pinFsel s.params s.gpio s.params.pinData = 0#3 ∧
      pinOut s.gpio s.params.pinClk = true ∧ pinOut s.gpio s.params.pinLatch = false ∧
      ({ s with inputs := [.buttons 1#16] } : State).inputs = .buttons 1#16 :: [] :=
  ⟨test_wf_example_params, by decide +kernel⟩

theorem witness_PollWaitsAreBounded :
    let s := idleBoard (during .poll 0#7 ready)
    s.inputs = [] ∧ s.resetLine = false ∧ s.srcp.busy = true ∧ s.srcp.cur = .poll ∧
      s.srcp.upc = 0#7 := by decide +kernel

theorem witness_DecodeRunDeliversElevenBeats :
    let s := board (during .decode 0#7 ready) (answers [] [] (List.replicate 11 true))
    (s.inputs = [] ∧ s.resetLine = false ∧ s.srcp.busy = true ∧ s.srcp.cur = .decode ∧
      s.srcp.upc = 0#7 ∧ ∀ n, n < 11 → nextReady (times tookReady n s.env) = true) ∧ SinkFair s := by
  refine ⟨by decide +kernel, fun _ k hk => ?_⟩
  have ready_at : ∀ n, n < 11 → nextReady (times tookReady n (answers [] [] (List.replicate 11 true))) = true := by
    decide +kernel
  by_cases h : k < 11
  · exact ⟨k, Nat.le_refl k, ready_at k h⟩
  · obtain ⟨j, rfl⟩ := Nat.exists_eq_add_of_le (Nat.le_of_not_lt h)
    rw [Nat.add_comm 11 j] at hk
    simp [beatsAccepted, board, answers, nextReady, tookReady] at hk
    omega

/-- A sink that is not ready for three ticks, at the last beat. -/
theorem witness_StalledSinkHoldsTheBeat :
    let s := board (during .decodeImm 10#7 ready) (answers [] [] [false, false, false])
    s.inputs = [] ∧ s.resetLine = false ∧ s.srcp.busy = true ∧ s.srcp.cur = .decodeImm ∧ s.srcp.upc.toNat ≤ 10 ∧
      ∀ m, m < 3 → nextReady (times tookReady m s.env) = false := by decide +kernel

/-- A step inside a POLL, and a release step. -/
theorem witness_EveryStepKeepsTheLifecycle :
    (∃ s t : State, LifecycleInv s.srcp ∧ step s = .next t ∧ s.srcp.busy = true) ∧
    ∃ s t : State, LifecycleInv s.srcp ∧ step s = .next t ∧ releasing s.srcp = true :=
  ⟨⟨{ idleBoard (during .poll 6#7 ready) with inputs := [.buttons 1#16] }, _, lifecycle_mid_poll, step_of_turn rfl, rfl⟩,
    ⟨idleBoard (during .configure 2#7 { Srcp.reset with ownedClk := true }), _, lifecycle_releasing, rfl, rfl⟩⟩

theorem witness_EveryStepKeepsMemoryCanonical : ∃ s t : State, MemoryInv s ∧ step s = .next t :=
  ⟨{ idleBoard ready with inputs := [.otherMaster 0x2020001C 0x00020000#32] }, _, rfl, step_of_turn rfl⟩

theorem witness_EveryStepKeepsResetWhileHeld :
    ∃ s t : State, ResetHeldInv s ∧ s.resetLine = true ∧ step s = .next t :=
  ⟨{ State.reset with resetLine := true, inputs := [.resetAssert] }, _, fun _ => rfl, rfl, step_of_turn rfl⟩

theorem witness_EveryStepKeepsTheLines :
    ∃ s t : State, s.params.wf = true ∧ LifecycleInv s.srcp ∧ LinesInv s ∧ undisturbed s ∧ step s = .next t :=
  ⟨{ idleBoard (during .poll 6#7 ready) with
      gpio := { (idleBoard ready).gpio with out := [(17, false), (27, false)] }, inputs := [.buttons 1#16] }, _,
    test_wf_example_params,
    lifecycle_mid_poll,
    ⟨lines_mid_poll.clk_level, lines_mid_poll.latch_level, lines_mid_poll.directions⟩,
    fun _ _ _ h => (by cases h), step_of_turn rfl⟩

theorem witness_NoStepStops : ∃ s : State, LifecycleInv s.srcp ∧ s.srcp.busy = true := 
  ⟨idleBoard (during .poll 6#7 ready), lifecycle_mid_poll, rfl⟩

theorem witness_NoStepChangesTheParameters : ∃ s t : State, step s = .next t :=
  ⟨{ State.reset with inputs := [.resetAssert] }, _, step_of_turn rfl⟩

/-- LSTATE from UNCONFIGURED to TORN_DOWN, from READY to UNCONFIGURED by reset, and from UNCONFIGURED to FAILED. -/
theorem witness_LstateChangesOnlyAsTheTableSays :
    (∃ s t : State, LifecycleInv s.srcp ∧ step s = .next t ∧ s.srcp.lstate = .unconfigured ∧ t.srcp.lstate = .tornDown) ∧
    (∃ s t : State, LifecycleInv s.srcp ∧ step s = .next t ∧ s.srcp.lstate = .ready ∧ t.srcp.lstate = .unconfigured) ∧
    ∃ s t : State, LifecycleInv s.srcp ∧ step s = .next t ∧ s.srcp.lstate = .unconfigured ∧ t.srcp.lstate = .failed :=
  ⟨⟨{ State.reset with inputs := [hostWord exampleParams 0x00 0x00000006#32] }, _,
      ⟨fun h => (by cases h), fun h => (by cases h), fun _ l => (by cases l <;> rfl), fun h => (by cases h),
        rfl, fun h => (by cases h)⟩, rfl, rfl, rfl⟩,
    ⟨{ idleBoard (during .poll 6#7 ready) with inputs := [.resetAssert] }, _, lifecycle_mid_poll, step_of_turn rfl, rfl, rfl⟩,
    ⟨idleBoard (during .configure 2#7 { Srcp.reset with ownedClk := true }), _, lifecycle_releasing, rfl, rfl, rfl⟩⟩

/-- RAW changes by reset, and by POLL's completion. -/
theorem witness_OnlyPollsCompletionWritesRaw :
    (∃ s t : State, step s = .next t ∧ t.srcp.raw ≠ s.srcp.raw ∧ ∃ rest, s.inputs = .resetAssert :: rest) ∧
    (srcpAfterStep (board (during .poll 83#7 { ready with shift := 0xF101#16 }) (answers [] [6] []))).map Srcp.raw =
      some 0xF101#16 :=
  ⟨⟨{ idleBoard { ready with raw := 1#16 } with inputs := [.resetAssert] }, _, step_of_turn rfl, by decide, [], rfl⟩,
    by decide +kernel⟩

/-- ERR_STATE cleared by reset, and by HOST. -/
theorem witness_ErrorBitsAreSticky :
    (∃ s t : State, step s = .next t ∧ (statusWord s.srcp).getLsbD (errBit .state) = true ∧
      (statusWord t.srcp).getLsbD (errBit .state) = false) ∧
    ∃ s t : State, step s = .next t ∧ (statusWord s.srcp).getLsbD (errBit .state) = true ∧
      (statusWord t.srcp).getLsbD (errBit .state) = false ∧ s.inputs = [hostWord exampleParams 0x04 0x00001000#32] :=
  ⟨⟨{ idleBoard { ready with errState := true } with inputs := [.resetAssert] }, _, step_of_turn rfl, by decide,
      by decide⟩,
    ⟨{ idleBoard { ready with errState := true } with inputs := [hostWord exampleParams 0x04 0x00001000#32] }, _,
      step_of_turn rfl, by decide, by decide, rfl⟩⟩

theorem witness_NoAccessAndNoBeatBetweenCommands :
    (∃ s t : State, s.srcp.busy = false ∧ undisturbed s ∧ step s = .next t) ∧
    (∃ s t : State, s.resetLine = true ∧ undisturbed s ∧ step s = .next t) ∧
    ∃ s t : State, s.srcp.busy = true ∧ seqsTurn s = false ∧ undisturbed s ∧ step s = .next t :=
  ⟨⟨{ idleBoard ready with inputs := [.buttons 1#16] }, _, rfl, fun _ _ _ h => (by cases h), step_of_turn rfl⟩,
    ⟨{ State.reset with resetLine := true }, _, rfl, fun _ _ _ h => (by cases h), step_of_turn rfl⟩,
    ⟨{ idleBoard (during .poll 6#7 ready) with inputs := [.buttons 1#16] }, _, rfl, rfl,
      fun _ _ _ h => (by cases h), step_of_turn rfl⟩⟩

end Sys2Proof.Tests
end

section
/-! The parameters are arguments of the machine (00_scope.md R9): each of the three kinds of step leaves them alone. -/

namespace Sys2Proof.Machine

@[simp] theorem rejectWord_params (w : Word) (s : State) : (rejectWord w s).params = s.params := rfl

/-- SEQ's micro-operation runs on the state with the sink asked, which has the same parameters. -/
theorem SeqRuns.params_eq {s t : State} (h : SeqRuns s t) : t.params = s.params := by
  obtain ⟨-, rest, b, i, -, -, -, -, hx⟩ := h
  exact (exec_outside hx).params

theorem CommandRuns.params_eq {s t : State} (h : CommandRuns s t) : t.params = s.params := by
  obtain ⟨rest, w, i, -, -, -, hx⟩ := h
  exact (exec_outside hx).params

/-- Not even another bus master's write reaches them: it changes the GPIO file and what the controller sees of it
(20_memory.md R60, R61). -/
theorem OutsideActs.params_eq {s t : State} (h : OutsideActs s t) : t.params = s.params := by
  rcases h with ⟨rest, rs, rfl⟩ | ⟨rest, w, -, -, rfl⟩ | ⟨rest, v, -, -, rfl⟩ | ⟨rest, -, rfl⟩ | ⟨rest, -, rfl⟩ |
    ⟨rest, b, -, rfl⟩ | ⟨rest, a, v, -, rfl⟩
  case inl => rfl
  case inr.inl => exact rejectWord_params w _
  case inr.inr.inl => exact clearErrors_params v _
  case inr.inr.inr.inl => exact assertReset_params _
  case inr.inr.inr.inr.inl => rfl
  case inr.inr.inr.inr.inr.inl => exact pressButtons_params b _
  case inr.inr.inr.inr.inr.inr => exact memWrite_params _ a v

/-- Settles O56, by the three kinds of step. -/
theorem noStepChangesTheParameters : Obligations.NoStepChangesTheParameters := by
  intro s t h
  rcases step_cases h with hseq | hcmd | hout
  · exact hseq.params_eq
  · exact hcmd.params_eq
  · exact hout.params_eq

end Sys2Proof.Machine
end

section
/-! STATUS bit by bit (10_state.md R24, R25), and what HOST's write to it does (60_exceptions.md R156). -/

namespace Sys2Proof.Machine

/-- The error bit of `e`, as the register that holds it. -/
def hasErr (e : ErrCode) (r : Srcp) : Bool :=
  match e with
  | .resource => r.errResource
  | .alloc => r.errAlloc
  | .illegal => r.errIllegal
  | .busy => r.errBusy
  | .state => r.errState

/-- The table of 10_state.md R24: bit k of STATUS. -/
theorem getLsbD_statusWord (r : Srcp) {k : Nat} (hk : k < 32) :
    (statusWord r).getLsbD k =
      if k = 0 then r.busy
      else if k < 4 then (lstateCode r.lstate).getLsbD (k - 1)
      else if k = 4 then r.rawValid
      else if k = 8 then r.errResource
      else if k = 9 then r.errAlloc
      else if k = 10 then r.errIllegal
      else if k = 11 then r.errBusy
      else if k = 12 then r.errState
      else false := by
  simp only [statusWord, bit, BitVec.getLsbD_append]
  interval_cases k <;> simp

/-- An error's code is its bit of STATUS (60_exceptions.md R150). -/
theorem getLsbD_statusWord_errBit (e : ErrCode) (r : Srcp) : (statusWord r).getLsbD (errBit e) = hasErr e r := by
  cases e <;> exact getLsbD_statusWord r (by decide)

/-- A field of STATUS that holds no register reads 0 (10_state.md R24). -/
theorem extract_statusWord_reserved (r : Srcp) (lo n : Nat) (h : (lo = 5 ∧ n = 3) ∨ (lo = 13 ∧ n = 19)) :
    (statusWord r).extractLsb' lo n = 0#n := by
  apply BitVec.eq_of_getLsbD_eq
  intro i hi
  rw [BitVec.getLsbD_extractLsb', getLsbD_statusWord r (by omega), if_neg (by omega), if_neg (by omega),
    if_neg (by omega), if_neg (by omega), if_neg (by omega), if_neg (by omega), if_neg (by omega), if_neg (by omega)]
  simp

/-- STATUS[3:1] is the code of LSTATE (10_state.md R25). -/
theorem extract_statusWord_lstate (r : Srcp) : (statusWord r).extractLsb' 1 3 = lstateCode r.lstate := by
  apply BitVec.eq_of_getLsbD_eq
  intro i hi
  rw [BitVec.getLsbD_extractLsb', getLsbD_statusWord r (by omega), if_neg (by omega), if_pos (by omega)]
  simp [hi]

/-- Settles O37, field by field from the table of STATUS's bits. -/
theorem statusWordFields : Obligations.StatusWordFields := by
  intro r
  have hbit {k : Nat} (hk : k < 32) := getLsbD_statusWord r hk
  refine ⟨hbit (by decide), ?_, hbit (by decide), extract_statusWord_reserved r 5 3 (by decide), hbit (by decide),
    hbit (by decide), hbit (by decide), hbit (by decide), hbit (by decide),
    extract_statusWord_reserved r 13 19 (by decide)⟩
  rw [extract_statusWord_lstate]
  cases r.lstate <;> rfl

/-- The five error bits of STATUS, as a mask. -/
theorem getLsbD_errorMask {k : Nat} (hk : k < 32) : (0x00001F00#32).getLsbD k = decide (8 ≤ k ∧ k ≤ 12) := by
  have h : ∀ k : Fin 32, (0x00001F00#32).getLsbD k.val = decide (8 ≤ k.val ∧ k.val ≤ 12) := by decide
  exact h ⟨k, hk⟩

/-- HOST's write of v clears the error bits that v names, and no other bit (10_state.md R24). -/
theorem statusWord_clearErrs (v : Word) (r : Srcp) :
    statusWord (clearErrs v r) = statusWord r &&& ~~~(v &&& 0x00001F00#32) := by
  apply BitVec.eq_of_getLsbD_eq
  intro k hk
  rw [BitVec.getLsbD_and, BitVec.getLsbD_not, BitVec.getLsbD_and, getLsbD_errorMask hk, getLsbD_statusWord _ hk,
    getLsbD_statusWord _ hk]
  by_cases he : 8 ≤ k ∧ k ≤ 12
  · obtain rfl | rfl | rfl | rfl | rfl : k = 8 ∨ k = 9 ∨ k = 10 ∨ k = 11 ∨ k = 12 := by omega
    all_goals simp
  · simp [he, hk, show k ≠ 8 by omega, show k ≠ 9 by omega, show k ≠ 10 by omega, show k ≠ 11 by omega,
      show k ≠ 12 by omega]

/-- Settles O38: the write's turn is `clearErrors`, once it is answered. -/
theorem statusWriteClearsErrorBits : Obligations.StatusWriteClearsErrorBits := by
  intro s v rest hr hi
  refine ⟨clearErrors v { s with inputs := rest, responses := .ack :: s.responses }, ?_, statusWord_clearErrs v s.srcp,
    rfl⟩
  rw [step, nextTurn_hostWord (by decide) (by decide) hi, hr]
  rfl

end Sys2Proof.Machine
end

section
/-! HOST's window (20_memory.md R52) and SEQ's turn (40_line_ops.md R97): which turn is due. -/

namespace Sys2Proof.Machine

/-- HOST writes only CMD and STATUS (10_state.md R31). -/
theorem writeTurn_other {off : Nat} (h : 8 ≤ off) (v : Word) (s : State) : writeTurn off v s = .settled s := by
  obtain ⟨n, rfl⟩ := Nat.exists_eq_add_of_le' h
  rfl

/-- A reserved offset reads 0 (20_memory.md R54). -/
theorem hostRead_reserved (r : Srcp) {off : Nat} (h : 0x1C ≤ off) : hostRead r off = 0x00000000#32 := by
  obtain ⟨n, rfl⟩ := Nat.exists_eq_add_of_le' h
  rfl

/-- Settles O40, with RESET held and released. -/
theorem otherOffsetsIgnoreWritesAndReservedReadZero :
    Obligations.OtherOffsetsIgnoreWritesAndReservedReadZero := by
  intro s off v rest hlt h4
  constructor
  · intro h8 hi
    rw [step, nextTurn_hostWord hlt h4 hi, writeTurn_other h8, ite_self]
    rfl
  · intro h1C hi
    rw [step, nextTurn_hostFetch hlt h4 hi, hostRead_reserved _ h1C]
    rfl

/-- Settles O10: offset 0x00 is CMD, and a word the decoder takes is run. -/
theorem commandWriteRunsTheDecodedCommand : Obligations.CommandWriteRunsTheDecodedCommand := by
  intro s w i rest hr hi hd
  have hc : decodeCommand w = .ok i := hd
  rw [step, nextTurn_hostWord (by decide) (by decide) hi, hr]
  simp [writeTurn, issueTurn, hc, takeTurn]

/-- The line whose release is due is the first owned one, in the order CLK, LATCH, DATA. -/
theorem ownedLines_head? (r : Srcp) :
    (ownedLines r).head? =
      if r.ownedClk then some .clk else if r.ownedLatch then some .latch
      else if r.ownedData then some .data else none := by
  simp only [ownedLines, List.filter_cons, List.filter_nil, owned]
  cases r.ownedClk <;> cases r.ownedLatch <;> cases r.ownedData <;> rfl

/-- Three ways the turn can come to SEQ (log 15, log 22): where SEQ's turn runs i whatever is pending, so does the
step. -/
theorem step_of_seqTurn {s : State} {i : Instr} {e : Env} (hb : s.srcp.busy = true)
    (h : ∀ pending, seqTurn { s with inputs := pending } = .run i { s with inputs := pending, env := e })
    (rest : List Input) :
    (s.inputs = [] → step s = exec i { s with env := e }) ∧
    (s.inputs = .waitIdle :: rest → step s = exec i { s with env := e }) ∧
    (s.inputs = .seq :: rest → step s = exec i { s with inputs := rest, env := e }) := by
  have hs : seqTurn s = .run i { s with env := e } := h s.inputs
  refine ⟨fun hi => ?_, fun hi => ?_, fun hi => ?_⟩
  · simp only [step, nextTurn, hi, hs, takeTurn]
  · simp only [step, nextTurn, hi, waitIdleTurn, hb, hs, takeTurn, if_true]
  · simp only [step, nextTurn, hi, h, takeTurn]

/-- The byte at UPC is due where no line is missing and no sink is to be asked. -/
theorem fetch_at_upc {s : State} {b : Byte} (hf : (microprogram s.srcp.cur)[s.srcp.upc.toNat]? = some b)
    (hn : s.srcp.cur = .configure → linesHeld s.srcp.lstate = true ∨
      s.srcp.upc ≠ 3#7 ∧ ∀ l, lineIndex l < s.srcp.upc.toNat → owned s.srcp l = true) :
    fetch s = some b ∧ askSink s = s :=
  ⟨(fetch_microprogram (nextRelease_none hn).1).trans hf, (nextRelease_none hn).2⟩

/-- With the three lines owned at UPC 3 the sink's answer chooses between LCFG CLK and LREL CLK (41_pin_config.md
R101). -/
theorem fetch_sinkDue {s : State} (h : sinkDue s.srcp = true) :
    fetch s = some (if nextSinkOk s.env then 0x81#8 else 0xC0#8) ∧ askSink s = { s with env := tookSinkOk s.env } := by
  obtain ⟨hn, ha⟩ := nextRelease_sinkDue h
  refine ⟨?_, ha⟩
  obtain ⟨hc, -, hu, -⟩ := (sinkDue_iff _).mp h
  cases hs : nextSinkOk s.env with
  | true =>
    rw [hs] at hn
    rw [fetch_microprogram hn, hc, hu]
    rfl
  | false =>
    rw [hs] at hn
    rw [fetch_release hn]
    rfl

/-- With a line missing the LREL of the first owned line is due (41_pin_config.md R101; log 9). -/
theorem fetch_lineMissing {s : State} {l : Line} (h : lineMissing s.srcp = true)
    (hl : (ownedLines s.srcp).head? = some l) : fetch s = some (lrelByte l) ∧ askSink s = s := by
  obtain ⟨hn, ha⟩ := nextRelease_lineMissing h
  exact ⟨fetch_release (hn.trans hl), ha⟩

/-- Settles O9, by which byte is due. -/
theorem seqTurnRunsTheFetchedMicroOp : Obligations.SeqTurnRunsTheFetchedMicroOp := by
  intro s b i e rest hb hr hdue hd
  have hdec : decodeMicroOp b = .ok i := hd
  refine step_of_seqTurn hb (fun pending => ?_) rest
  have run (hf : fetch { s with inputs := pending } = some b)
      (ha : askSink { s with inputs := pending } = { s with inputs := pending, env := e }) :
      seqTurn { s with inputs := pending } = .run i { s with inputs := pending, env := e } := by
    rw [seqTurn_run (s := { s with inputs := pending }) hb hr hf hdec, ha]
  rcases hdue with ⟨hf, rfl, hn⟩ | ⟨hc, hl, hu, ho, rfl, rfl⟩ | ⟨hc, hl, hm, rfl, hfirst⟩
  case inl =>
    obtain ⟨hf, ha⟩ := fetch_at_upc (s := { s with inputs := pending }) hf hn
    exact run hf ha
  case inr.inl =>
    obtain ⟨hf, ha⟩ := fetch_sinkDue (s := { s with inputs := pending }) ((sinkDue_iff _).mpr ⟨hc, hl, hu, ho⟩)
    exact run hf ha
  case inr.inr =>
    have hmiss : lineMissing s.srcp = true := (lineMissing_iff _).mpr ⟨hc, hl, hm⟩
    have release (l : Line) (hh : (ownedLines s.srcp).head? = some l) (hbl : b = lrelByte l) :
        seqTurn { s with inputs := pending } = .run i { s with inputs := pending } := by
      obtain ⟨hf, ha⟩ := fetch_lineMissing (s := { s with inputs := pending }) hmiss hh
      exact run (hbl ▸ hf) ha
    rcases hfirst with ⟨h1, hbyte⟩ | ⟨h1, h2, hbyte⟩ | ⟨h1, h2, h3, hbyte⟩
    · exact release .clk (by simp [ownedLines_head?, h1]) hbyte
    · exact release .latch (by simp [ownedLines_head?, h1, h2]) hbyte
    · exact release .data (by simp [ownedLines_head?, h1, h2, h3]) hbyte

end Sys2Proof.Machine
end

section
/-! What each kind of step can write of SRCP's registers: acceptance, a micro-operation, the outside. From it, who
writes RAW (10_state.md R26) and who clears an error bit (10_state.md R45). -/

namespace Sys2Proof.Machine

/-! ### Acceptance -/

/-- What acceptance of a command writes besides CUR (60_exceptions.md R151); `imm` is DECODE_IMM's operand. -/
def acceptedBy (imm : Half) : Op → Srcp → Srcp
  | .nop => fun r => r
  | .configure => beginConfigure
  | .idle => beginAt 0#7
  | .poll => beginPoll
  | .decode => fun r => beginDecode r.raw r
  | .decodeImm => beginDecode imm
  | .teardown => beginTeardown

/-- Every command is the check of 60_exceptions.md R151 with what its own acceptance writes. -/
theorem exec_command {i : Instr} {w : Word} (h : encode i = .command w) :
    ∃ op imm, ∀ s, exec i s = .next (issue op w (acceptedBy imm op) s) := by
  cases i <;> simp only [encode, Code.command.injEq, reduceCtorEq] at h <;> subst h
  case nop => exact ⟨.nop, 0#16, fun _ => rfl⟩
  case configure => exact ⟨.configure, 0#16, fun _ => rfl⟩
  case idle => exact ⟨.idle, 0#16, fun _ => rfl⟩
  case poll => exact ⟨.poll, 0#16, fun _ => rfl⟩
  case decode => exact ⟨.decode, 0#16, fun _ => rfl⟩
  case decodeImm imm => exact ⟨.decodeImm, imm, fun _ => rfl⟩
  case teardown => exact ⟨.teardown, 0#16, fun _ => rfl⟩

/-- A word HOST wrote to CMD is turned away with an error that ends no command (60_exceptions.md R151, R153). -/
def TurnedAway (s t : State) : Prop :=
  ∃ e w u, endsCommand e = false ∧ u.srcp = s.srcp ∧ t.srcp = (raiseErr e w u).srcp

/-- HOST's command is turned away, or accepted where it is legal. -/
theorem CommandRuns.srcp_cases {s t : State} (h : CommandRuns s t) :
    TurnedAway s t ∨
    (∃ op imm, s.srcp.busy = false ∧ legal op s.srcp.lstate s.srcp.rawValid = true ∧
      t.srcp = acceptedBy imm op { s.srcp with cur := op }) := by
  obtain ⟨rest, w, i, -, -, hd, hx⟩ := h
  obtain ⟨v, hv⟩ := encode_of_decodeCommand w i hd
  obtain ⟨op, imm, hexec⟩ := exec_command hv
  rw [hexec] at hx
  cases hx
  rcases issue_cases op v (acceptedBy imm op) { s with inputs := rest, responses := .ack :: s.responses } with
    ⟨-, he⟩ | ⟨-, -, he⟩ | ⟨hb, hl, he⟩ <;> rw [he]
  · exact .inl ⟨.busy, v, _, rfl, rfl, rfl⟩
  · exact .inl ⟨.state, v, _, rfl, rfl, rfl⟩
  · exact .inr ⟨op, imm, hb, hl, rfl⟩

/-- TEARDOWN's acceptance, where it ends at once, writes RAW_VALID and LSTATE but neither RAW nor an error bit. -/
theorem beginTeardown_keeps (r : Srcp) :
    (beginTeardown r).raw = r.raw ∧ ∀ e, hasErr e (beginTeardown r) = hasErr e r := by
  unfold beginTeardown
  split <;> exact ⟨rfl, fun e => by cases e <;> rfl⟩

/-- Acceptance leaves RAW and the error bits alone. -/
theorem acceptedBy_keeps (imm : Half) (op : Op) (r : Srcp) :
    (acceptedBy imm op r).raw = r.raw ∧ ∀ e, hasErr e (acceptedBy imm op r) = hasErr e r := by
  cases op
  case teardown => exact beginTeardown_keeps r
  all_goals exact ⟨rfl, fun e => by cases e <;> rfl⟩

/-! ### Errors -/

/-- Raising an error leaves RAW alone (60_exceptions.md R153). -/
theorem raiseErr_raw (e : ErrCode) (w : Word) (s : State) : (raiseErr e w s).srcp.raw = s.srcp.raw := by
  cases e <;> rfl

/-- Raising an error sets its own bit and leaves the others (60_exceptions.md R153). -/
theorem hasErr_raiseErr (e d : ErrCode) (w : Word) (s : State) :
    hasErr e (raiseErr d w s).srcp = (decide (e = d) || hasErr e s.srcp) := by
  cases d <;> cases e <;> rfl

/-- Raising an error clears no error bit (60_exceptions.md R157). -/
theorem hasErr_raiseErr_of_set {e : ErrCode} {s : State} (h : hasErr e s.srcp = true) (d : ErrCode) (w : Word) :
    hasErr e (raiseErr d w s).srcp = true := by
  rw [hasErr_raiseErr, h, Bool.or_true]

/-- HOST's write of v to STATUS clears an error bit only where v has it (10_state.md R24). -/
theorem hasErr_clearErrs (e : ErrCode) (v : Word) (r : Srcp) :
    hasErr e (clearErrs v r) = (hasErr e r && !v.getLsbD (errBit e)) := by
  cases e <;> rfl

theorem TurnedAway.raw_eq {s t : State} (h : TurnedAway s t) : t.srcp.raw = s.srcp.raw := by
  obtain ⟨e, w, u, -, hu, ht⟩ := h
  rw [ht, raiseErr_raw, hu]

theorem TurnedAway.keeps_hasErr {s t : State} (h : TurnedAway s t) {e : ErrCode} (he : hasErr e s.srcp = true) :
    hasErr e t.srcp = true := by
  obtain ⟨d, w, u, -, hu, ht⟩ := h
  rw [ht]
  exact hasErr_raiseErr_of_set (hu ▸ he) d w

/-! ### The outside -/

/-- Everything the outside can do to SRCP's registers: nothing, a word turned away, HOST's write to STATUS, RESET. -/
theorem OutsideActs.srcp_cases {s t : State} (h : OutsideActs s t) :
    t.srcp = s.srcp ∨ TurnedAway s t ∨
    (∃ v rest, s.inputs = hostWord s.params 0x04 v :: rest ∧ t.srcp = clearErrs v s.srcp) ∨
    (∃ rest, s.inputs = .resetAssert :: rest ∧ t.srcp = Srcp.reset) := by
  rcases h with ⟨rest, rs, rfl⟩ | ⟨rest, w, -, -, rfl⟩ | ⟨rest, v, -, hi, rfl⟩ | ⟨rest, hi, rfl⟩ | ⟨rest, -, rfl⟩ |
    ⟨rest, b, -, rfl⟩ | ⟨rest, a, v, -, rfl⟩
  case inr.inl =>
    refine .inr (.inl ⟨_, w, _, ?_, rfl, rfl⟩)
    cases s.srcp.busy <;> rfl
  case inr.inr.inl => exact .inr (.inr (.inl ⟨v, rest, hi, rfl⟩))
  case inr.inr.inr.inl => exact .inr (.inr (.inr ⟨rest, hi, rfl⟩))
  all_goals exact .inl rfl

/-! ### Micro-operations -/

/-- From r to r' only DCNT, SHIFT and OWNED changed: what a micro-operation may write before SEQ moves on. -/
def WorkRegsOnly (r r' : Srcp) : Prop :=
  r' = { r with
    dcnt := r'.dcnt, shift := r'.shift, ownedClk := r'.ownedClk, ownedLatch := r'.ownedLatch,
    ownedData := r'.ownedData }

theorem WorkRegsOnly.refl (r : Srcp) : WorkRegsOnly r r := rfl

theorem WorkRegsOnly.dcnt_shift (d : Nat) (v : Half) (r : Srcp) :
    WorkRegsOnly r { r with dcnt := d, shift := v } := rfl

theorem WorkRegsOnly.setOwned (l : Line) (b : Bool) (r : Srcp) : WorkRegsOnly r (setOwned l b r) := by
  cases l <;> rfl

theorem WorkRegsOnly.cur_eq {r r' : Srcp} (h : WorkRegsOnly r r') : r'.cur = r.cur := by
  rw [h]

theorem WorkRegsOnly.upc_eq {r r' : Srcp} (h : WorkRegsOnly r r') : r'.upc = r.upc := by
  rw [h]

theorem WorkRegsOnly.raw_eq {r r' : Srcp} (h : WorkRegsOnly r r') : r'.raw = r.raw := by
  rw [h]

theorem WorkRegsOnly.hasErr_eq {r r' : Srcp} (h : WorkRegsOnly r r') (e : ErrCode) : hasErr e r' = hasErr e r := by
  rw [h]; cases e <;> rfl

/-- A micro-operation that is neither LACQ nor LREL leaves SRCP as it is, or writes DCNT and SHIFT at most and lets SEQ
move on; a wait is over when it does (40_line_ops.md R96). -/
theorem exec_microOp_srcp {b : Byte} {i : Instr} {s t : State} (hd : decodeMicroOp b = .ok i)
    (h : exec i s = .next t) :
    (∃ d v, (s.srcp.dcnt = 0 → d = 0) ∧
      (t.srcp = s.srcp ∨ t.srcp = advance { s.srcp with dcnt := d, shift := v })) ∨
    (i ∈ [Instr.lacqClk, .lacqLatch, .lacqData] ∧ ∃ l, t = acquireLine l s) ∨
    (i ∈ [Instr.lrelClk, .lrelLatch, .lrelData] ∧ ∃ l, t = releaseLine l s) := by
  rcases exec_microOp_cases hd h with ⟨c, rfl⟩ | ⟨l, rfl⟩ | ⟨l, rfl⟩ | rfl | ⟨l, d, rfl⟩ | hacq | hrel | ⟨-, rfl⟩ |
    ⟨-, rfl⟩
  case inr.inr.inr.inr.inr.inl => exact .inr (.inl hacq)
  case inr.inr.inr.inr.inr.inr.inl => exact .inr (.inr hrel)
  case inl => exact .inl ⟨0, s.srcp.shift, fun _ => rfl, .inr rfl⟩
  case inr.inr.inr.inr.inr.inr.inr.inr => exact .inl ⟨s.srcp.dcnt, s.srcp.shift, id, .inl rfl⟩
  all_goals exact .inl ⟨s.srcp.dcnt, _, id, .inr rfl⟩

/-- Every micro-operation writes DCNT, SHIFT and OWNED at most, and then stays, moves on, or ends a CONFIGURE that has
failed. -/
theorem exec_microOp_workRegs {b : Byte} {i : Instr} {s t : State} (hd : decodeMicroOp b = .ok i)
    (h : exec i s = .next t) :
    ∃ r, WorkRegsOnly s.srcp r ∧
      (t.srcp = r ∨ t.srcp = advance r ∨ ∃ e u, u.srcp = r ∧ t.srcp = (failConfigure e u).srcp) := by
  rcases exec_microOp_srcp hd h with ⟨d, v, -, ht | ht⟩ | ⟨-, l, rfl⟩ | ⟨-, l, rfl⟩
  · exact ⟨s.srcp, .refl _, .inl ht⟩
  · exact ⟨_, .dcnt_shift d v _, .inr (.inl ht)⟩
  · rcases acquireLine_cases l s with ⟨-, ha⟩ | ⟨-, -, ha⟩ | ⟨-, -, ha⟩ <;> rw [ha]
    · exact ⟨s.srcp, .refl _, .inr (.inl rfl)⟩
    · exact ⟨_, .setOwned l true _, .inr (.inl rfl)⟩
    · rcases denyLine_cases { s with env := tookGrant s.env } with ⟨-, hn⟩ | ⟨-, hn⟩ <;> rw [hn]
      · exact ⟨s.srcp, .refl _, .inr (.inr ⟨_, _, rfl, rfl⟩)⟩
      · exact ⟨s.srcp, .refl _, .inr (.inl rfl)⟩
  · refine ⟨_, .setOwned l false _, ?_⟩
    rcases releaseLine_cases l s with ⟨-, hr⟩ | ⟨-, -, hr⟩ | ⟨-, -, hr⟩ <;> rw [hr]
    · exact .inr (.inl rfl)
    · exact .inr (.inr ⟨_, _, rfl, rfl⟩)
    · exact .inl rfl

/-- Of the completion effects only POLL's writes RAW (42_poll.md R117). -/
theorem completion_raw {r : Srcp} (h : r.cur ≠ .poll) : (completion r).raw = r.raw := by
  unfold completion
  split
  case h_2 => split <;> rfl
  case h_4 hc => exact absurd hc h
  all_goals rfl

/-- No completion effect writes an error bit. -/
theorem hasErr_completion (e : ErrCode) (r : Srcp) : hasErr e (completion r) = hasErr e r := by
  unfold completion
  split
  case h_2 => split <;> rfl
  all_goals cases e <;> rfl

/-- The end of POLL (42_poll.md R117; log 8). -/
theorem advance_poll_last {r : Srcp} (hc : r.cur = .poll) (h : 84 ≤ r.upc.toNat + 1) :
    advance r = { r with busy := false, upc := 0#7, raw := r.shift, rawValid := true } := by
  rw [advance_last r (by rw [hc]; exact h)]
  simp [completion, hc]

/-- SEQ's move writes RAW nowhere but at the end of POLL (10_state.md R26). -/
theorem advance_raw {r : Srcp} (h : r.cur = .poll → r.upc.toNat + 1 < 84) : (advance r).raw = r.raw := by
  rcases Nat.lt_or_ge (r.upc.toNat + 1) (microprogram r.cur).length with hin | hlast
  · rw [advance_inside r hin]
  · rw [advance_last r hlast]
    refine completion_raw fun hc => ?_
    rw [hc] at hlast
    exact absurd (h hc) (Nat.not_lt.mpr hlast)

/-- SEQ's move writes no error bit. -/
theorem hasErr_advance (e : ErrCode) (r : Srcp) : hasErr e (advance r) = hasErr e r := by
  rcases Nat.lt_or_ge (r.upc.toNat + 1) (microprogram r.cur).length with hin | hlast
  · rw [advance_inside r hin]; cases e <;> rfl
  · rw [advance_last r hlast, ← hasErr_completion e r]; cases e <;> rfl

/-- Settles O22, from the two ways SEQ moves. -/
theorem seqMovesOnOrCompletes : Obligations.SeqMovesOnOrCompletes := by
  intro r
  refine ⟨fun hin => ⟨advance_inside r hin, upc_succ_toNat r hin⟩, fun hlast => ?_⟩
  rw [advance_last r hlast]
  refine ⟨fun hc hl => ?_, fun hc hl => ?_, fun hc => ?_, fun hc => ?_, fun hc => ?_, fun hc => ?_⟩
  · rcases hl with hl | hl <;> simp [completion, hc, hl]
  · rcases hl with hl | hl <;> simp [completion, hc, hl]
  · simp [completion, hc]
  · rw [← advance_last r hlast]
    rw [hc] at hlast
    exact advance_poll_last hc hlast
  · rcases hc with hc | hc <;> simp [completion, hc]
  · simp [completion, hc, tornDown]

/-! ### RAW -/

theorem CommandRuns.raw_eq {s t : State} (h : CommandRuns s t) : t.srcp.raw = s.srcp.raw := by
  rcases h.srcp_cases with haway | ⟨op, imm, -, -, ht⟩
  · exact haway.raw_eq
  · rw [ht]; exact (acceptedBy_keeps imm op _).1

/-- Of what the outside does, only RESET writes RAW. -/
theorem OutsideActs.raw_cases {s t : State} (h : OutsideActs s t) :
    t.srcp.raw = s.srcp.raw ∨ ∃ rest, s.inputs = .resetAssert :: rest ∧ t.srcp.raw = 0x0000#16 := by
  rcases h.srcp_cases with ht | haway | ⟨v, rest, -, ht⟩ | ⟨rest, hi, ht⟩
  · exact .inl (by rw [ht])
  · exact .inl haway.raw_eq
  · exact .inl (by rw [ht, clearErrs_raw])
  · exact .inr ⟨rest, hi, by rw [ht]; rfl⟩

/-- SEQ can be past its last-but-one micro-operation of POLL only at UPC 83, where it waits. -/
theorem fetch_poll_last {s : State} {b : Byte} (hc : s.srcp.cur = .poll) (hu : 84 ≤ s.srcp.upc.toNat + 1)
    (hf : fetch s = some b) : s.srcp.upc = 83#7 ∧ b = 0x03#8 := by
  have hn : nextRelease s = none := (nextRelease_none fun h => by rw [hc] at h; cases h).1
  rw [fetch_microprogram hn, hc] at hf
  obtain ⟨hlt, hb⟩ := List.getElem?_eq_some_iff.mp hf
  have h83 : s.srcp.upc = 83#7 := by
    apply BitVec.eq_of_toNat_eq
    have : s.srcp.upc.toNat < 84 := hlt
    simp; omega
  refine ⟨h83, ?_⟩
  rw [h83] at hf
  exact (Option.some.inj hf).symm

/-- SEQ writes RAW only at the last micro-operation of POLL (42_poll.md R117; log 8). -/
theorem SeqRuns.raw_cases {s t : State} (h : SeqRuns s t) :
    t.srcp.raw = s.srcp.raw ∨
    (s.srcp.busy = true ∧ s.srcp.cur = .poll ∧ s.srcp.upc = 83#7 ∧ t.srcp.raw = s.srcp.shift ∧
      t.srcp.rawValid = true ∧ t.srcp.busy = false) := by
  obtain ⟨-, rest, b, i, -, hb, hf, hd, hx⟩ := h
  by_cases hend : s.srcp.cur = .poll ∧ 84 ≤ s.srcp.upc.toNat + 1
  · obtain ⟨hc, hu⟩ := hend
    obtain ⟨h83, rfl⟩ := fetch_poll_last hc hu hf
    cases hd
    cases hx
    have hadv : advance { s.srcp with dcnt := 0 } = _ := advance_poll_last hc hu
    refine .inr ⟨hb, hc, h83, ?_⟩
    rw [waitFor_spec]
    exact ⟨congrArg Srcp.raw hadv, congrArg Srcp.rawValid hadv, congrArg Srcp.busy hadv⟩
  · left
    obtain ⟨r, hr, ht | ht | ⟨e, u, hu, ht⟩⟩ := exec_microOp_workRegs hd hx
    · exact (congrArg Srcp.raw ht).trans hr.raw_eq
    · rw [ht, advance_raw (fun hc => ?_)]
      · exact hr.raw_eq
      · rw [hr.cur_eq] at hc
        rw [hr.upc_eq]
        exact Nat.lt_of_not_le fun hu => hend ⟨hc, hu⟩
    · rw [ht, failConfigure, raiseErr_raw]
      exact (congrArg Srcp.raw hu).trans hr.raw_eq

/-- Settles O58, by the three kinds of step. -/
theorem onlyPollsCompletionWritesRaw : Obligations.OnlyPollsCompletionWritesRaw := by
  intro s t h hne
  rcases step_cases h with hseq | hcmd | hout
  · exact .inr (hseq.raw_cases.resolve_left hne)
  · exact absurd hcmd.raw_eq hne
  · exact .inl (hout.raw_cases.resolve_left hne)

/-! ### The error bits -/

theorem CommandRuns.keeps_hasErr {s t : State} (h : CommandRuns s t) {e : ErrCode} (he : hasErr e s.srcp = true) :
    hasErr e t.srcp = true := by
  rcases h.srcp_cases with haway | ⟨op, imm, -, -, ht⟩
  · exact haway.keeps_hasErr he
  · rw [ht, (acceptedBy_keeps imm op _).2]; cases e <;> exact he

theorem SeqRuns.keeps_hasErr {s t : State} (h : SeqRuns s t) {e : ErrCode} (he : hasErr e s.srcp = true) :
    hasErr e t.srcp = true := by
  obtain ⟨-, rest, b, i, -, -, -, hd, hx⟩ := h
  obtain ⟨r, hr, hcases⟩ := exec_microOp_workRegs hd hx
  have her : hasErr e r = true := (hr.hasErr_eq e).trans he
  rcases hcases with ht | ht | ⟨d, u, hu, ht⟩ <;> rw [ht]
  · exact her
  · rw [hasErr_advance, her]
  · refine hasErr_raiseErr_of_set ?_ d _
    rw [← hu] at her
    cases e <;> exact her

/-- Settles O59, by the three kinds of step: of what the outside does, RESET and HOST's write to STATUS alone clear an
error bit (60_exceptions.md R157). -/
theorem errorBitsAreSticky : Obligations.ErrorBitsAreSticky := by
  intro s t e h hset hclear
  rw [getLsbD_statusWord_errBit] at hset hclear
  rcases step_cases h with hseq | hcmd | hout
  · simp [hseq.keeps_hasErr hset] at hclear
  · simp [hcmd.keeps_hasErr hset] at hclear
  · rcases hout.srcp_cases with ht | haway | ⟨v, rest, hi, ht⟩ | ⟨rest, hi, -⟩
    · simp [ht, hset] at hclear
    · simp [haway.keeps_hasErr hset] at hclear
    · refine .inr ⟨v, rest, hi, ?_⟩
      simpa [ht, hasErr_clearErrs, hset] using hclear
    · exact .inl ⟨rest, hi⟩

end Sys2Proof.Machine
end

section
/-! The GPIO register file changes by bus writes alone (10_state.md R42), each of which keeps its canonical form
(log 4). -/

namespace Sys2Proof.Machine

/-- From s to t the GPIO register file stays, or takes one write on the bus. -/
def GpioKeptOrWritten (s t : State) : Prop :=
  t.gpio = s.gpio ∨ ∃ a v, t.gpio = gpioWrite s.params s.gpio a v

theorem GpioKeptOrWritten.keeps_memoryInv {s t : State} (h : GpioKeptOrWritten s t) (hs : MemoryInv s) :
    MemoryInv t := by
  unfold MemoryInv at hs ⊢
  rcases h with h | ⟨a, v, h⟩ <;> rw [h]
  · exact hs
  · exact wf_gpioWrite _ _ _ _ hs

theorem SeqRuns.gpio_cases {s t : State} (h : SeqRuns s t) : GpioKeptOrWritten s t := by
  obtain ⟨-, rest, b, i, -, -, -, hd, hx⟩ := h
  rcases exec_microOp_cases hd hx with ⟨c, rfl⟩ | ⟨l, rfl⟩ | ⟨l, rfl⟩ | rfl | ⟨l, d, rfl⟩ | ⟨-, l, rfl⟩ | ⟨-, l, rfl⟩ |
    ⟨-, rfl⟩ | ⟨-, rfl⟩
  case inr.inl => exact .inr ⟨_, _, rfl⟩
  case inr.inr.inl => exact .inr ⟨_, _, rfl⟩
  case inr.inr.inr.inr.inl => exact .inr ⟨_, _, rfl⟩
  case inr.inr.inr.inr.inr.inl => exact .inl (acquireLine_frame l _).2.1
  case inr.inr.inr.inr.inr.inr.inl => exact .inl (releaseLine_frame l _).2.1
  all_goals exact .inl rfl

/-- A command's check and acceptance make no bus access (60_exceptions.md R151). -/
theorem CommandRuns.gpio_eq {s t : State} (h : CommandRuns s t) : t.gpio = s.gpio := by
  obtain ⟨rest, w, i, -, -, hd, hx⟩ := h
  obtain ⟨v, hv⟩ := encode_of_decodeCommand w i hd
  obtain ⟨op, f, hexec⟩ := exec_command_cases i v hv
  rw [hexec] at hx
  cases hx
  rcases issue_cases op v f { s with inputs := rest, responses := .ack :: s.responses } with
    ⟨-, he⟩ | ⟨-, -, he⟩ | ⟨-, -, he⟩ <;> rw [he] <;> rfl

/-- Of what the outside does, only another agent's write reaches the GPIO register file. -/
theorem OutsideActs.gpio_cases {s t : State} (h : OutsideActs s t) : GpioKeptOrWritten s t := by
  rcases h with ⟨rest, rs, rfl⟩ | ⟨rest, w, -, -, rfl⟩ | ⟨rest, v, -, -, rfl⟩ | ⟨rest, -, rfl⟩ | ⟨rest, -, rfl⟩ |
    ⟨rest, b, -, rfl⟩ | ⟨rest, a, v, -, rfl⟩
  case inr.inr.inr.inr.inr.inr => exact .inr ⟨a, v, rfl⟩
  all_goals exact .inl rfl

/-- Settles O52, by the three kinds of step. -/
theorem everyStepKeepsMemoryCanonical : Obligations.EveryStepKeepsMemoryCanonical := by
  intro s t hs h
  rcases step_cases h with hseq | hcmd | hout
  · exact hseq.gpio_cases.keeps_memoryInv hs
  · exact GpioKeptOrWritten.keeps_memoryInv (.inl hcmd.gpio_eq) hs
  · exact hout.gpio_cases.keeps_memoryInv hs

end Sys2Proof.Machine
end

section
/-! SRCP's lifecycle (10_state.md R35, 41_pin_config.md R101 to R104, 60_exceptions.md R152): what `LifecycleInv` reads,
three ways to establish it, and that each kind of step keeps it. -/

namespace Sys2Proof.Machine

/-! ### What the invariant reads -/

/-- r with every register that `LifecycleInv` does not read at its reset value. -/
def lifecyclePart (r : Srcp) : Srcp :=
  { Srcp.reset with
    lstate := r.lstate, busy := r.busy, cur := r.cur, upc := r.upc, dcnt := r.dcnt, rawValid := r.rawValid,
    ownedClk := r.ownedClk, ownedLatch := r.ownedLatch, ownedData := r.ownedData }

theorem lifecycleInv_part (r : Srcp) : LifecycleInv (lifecyclePart r) ↔ LifecycleInv r :=
  ⟨fun ⟨h1, h2, h3, h4, h5, h6⟩ => ⟨h1, h2, h3, h4, h5, fun h => ⟨(h6 h).1, (h6 h).2⟩⟩,
    fun ⟨h1, h2, h3, h4, h5, h6⟩ => ⟨h1, h2, h3, h4, h5, fun h => ⟨(h6 h).1, (h6 h).2⟩⟩⟩

/-- Registers that differ in nothing the invariant reads fit together alike. -/
theorem LifecycleInv.congr {r r' : Srcp} (h : LifecycleInv r) (hp : lifecyclePart r' = lifecyclePart r) :
    LifecycleInv r' :=
  (lifecycleInv_part r').mp (hp ▸ (lifecycleInv_part r).mpr h)

/-- An error that ends no command writes nothing the invariant reads. -/
theorem lifecyclePart_raiseErr {e : ErrCode} (he : endsCommand e = false) (w : Word) (s : State) :
    lifecyclePart (raiseErr e w s).srcp = lifecyclePart s.srcp := by
  cases e <;> cases he <;> rfl

/-! ### OWNED -/

theorem owned_setOwned (l m : Line) (b : Bool) (r : Srcp) :
    owned (setOwned l b r) m = if m = l then b else owned r m := by
  cases l <;> cases m <;> rfl

/-- Writing an OWNED bit leaves every other register. -/
theorem setOwned_keeps (l : Line) (b : Bool) (r : Srcp) :
    (setOwned l b r).cur = r.cur ∧ (setOwned l b r).upc = r.upc ∧ (setOwned l b r).busy = r.busy ∧
    (setOwned l b r).lstate = r.lstate ∧ (setOwned l b r).rawValid = r.rawValid ∧ (setOwned l b r).dcnt = r.dcnt := by
  cases l <;> exact ⟨rfl, rfl, rfl, rfl, rfl, rfl⟩

theorem lineIndex_inj {l m : Line} (h : lineIndex l = lineIndex m) : l = m := by
  cases l <;> cases m <;> cases h <;> rfl

theorem lineIndex_ne {l m : Line} (h : l ≠ m) : lineIndex l ≠ lineIndex m :=
  mt lineIndex_inj h

theorem lineIndex_le (l : Line) : lineIndex l ≤ 2 := by
  cases l <;> decide

/-- Where OWNED is as the place in the microprogram says, no line before UPC is missing. -/
theorem not_lineMissing_of_owned {r : Srcp} (hb : r.busy = true) (ho : ∀ l, owned r l = ownedByPlace r l) :
    lineMissing r = false := by
  refine Bool.eq_false_iff.mpr fun hm => ?_
  obtain ⟨hc, -, l, hi, hl⟩ := (lineMissing_iff r).mp hm
  rw [ho l] at hl
  simp [ownedByPlace, hb, hc, hi] at hl

theorem releasing_iff (r : Srcp) :
    releasing r = true ↔ r.busy = true ∧ lineMissing r = true ∧ ∃ l, owned r l = true := by
  rw [← ownedLines_ne_nil]
  simp [releasing, and_assoc]

/-! ### Three ways for the registers to fit together -/

/-- OWNED as the place in the microprogram says, so that no release steps are due. -/
theorem LifecycleInv.in_place {r : Srcp} (hu : r.busy = true → r.upc.toNat < (microprogram r.cur).length)
    (hr : r.busy = true → runsLegally r) (ho : ∀ l, owned r l = ownedByPlace r l)
    (hs : r.rawValid = true → r.lstate = .ready) (hd : r.dcnt = 0) : LifecycleInv r where
  upc_inside := hu
  runs_legally := hr
  owned_as_lifecycle := fun _ => ho
  sample_only_in_ready := hs
  no_wait_left := hd
  releases_fit := fun h => by
    obtain ⟨hb, hm, -⟩ := (releasing_iff r).mp h
    rw [not_lineMissing_of_owned hb ho] at hm
    cases hm

/-- No command in progress. -/
theorem LifecycleInv.at_rest {r : Srcp} (hb : r.busy = false) (ho : ∀ l, owned r l = linesHeld r.lstate)
    (hs : r.rawValid = true → r.lstate = .ready) (hd : r.dcnt = 0) : LifecycleInv r :=
  .in_place (by simp [hb]) (by simp [hb]) (fun l => by simp [ownedByPlace, hb, ho]) hs hd

/-- A failed CONFIGURE among its release steps. -/
theorem LifecycleInv.among_releases {r : Srcp} (hb : r.busy = true) (hf : r.lstate ≠ .failed)
    (hm : lineMissing r = true) (hn : ∃ l, owned r l = true) (hfit : ReleasesFit r)
    (hs : r.rawValid = true → r.lstate = .ready) (hd : r.dcnt = 0) : LifecycleInv r := by
  obtain ⟨hc, hl, -⟩ := (lineMissing_iff r).mp hm
  have hrel : releasing r = true := (releasing_iff r).mpr ⟨hb, hm, hn⟩
  have hupc := hfit.upc_at_most_three
  refine ⟨fun _ => ?_, fun _ => ?_, fun h => ?_, hs, hd, fun _ => hfit⟩
  · rw [hc]
    exact Nat.lt_of_le_of_lt hupc (by decide)
  · simp [runsLegally, hc, hf, hl]
  · rw [hrel] at h
    cases h

/-- With BUSY = 0 SRCP owns the lines exactly in CONFIGURED and READY (41_pin_config.md R104). -/
theorem LifecycleInv.owned_at_rest {r : Srcp} (h : LifecycleInv r) (hb : r.busy = false) (l : Line) :
    owned r l = linesHeld r.lstate := by
  have hrel : releasing r = false := by simp [releasing, hb]
  simpa [ownedByPlace, hb] using h.owned_as_lifecycle hrel l

/-- A sample exists only where the lines are held. -/
theorem LifecycleInv.no_sample {r : Srcp} (h : LifecycleInv r) (hl : linesHeld r.lstate = false) :
    r.rawValid = false := by
  refine Bool.eq_false_iff.mpr fun hv => ?_
  rw [h.sample_only_in_ready hv] at hl
  cases hl

/-- SRCP after reset (10_state.md R46). -/
theorem lifecycleInv_reset : LifecycleInv Srcp.reset :=
  .at_rest rfl (fun l => by cases l <;> rfl) (fun h => by cases h) rfl

/-! ### Acceptance -/

/-- Every command but NOP has a first micro-operation, where one is run for it. -/
theorem upc_zero_inside {op : Op} (h : op ≠ .nop) : (0#7).toNat < (microprogram op).length := by
  cases op
  case nop => exact absurd rfl h
  all_goals decide

/-- CONFIGURE begins inside its microprogram, on either path (60_exceptions.md R151). -/
theorem LifecycleInv.beginConfigure {r : Srcp} (hc : r.cur = .configure) (hf : r.lstate ≠ .failed)
    (ho : ∀ l, owned r l = linesHeld r.lstate) (hs : r.rawValid = true → r.lstate = .ready) (hd : r.dcnt = 0) :
    LifecycleInv (Machine.beginConfigure r) := by
  unfold Machine.beginConfigure
  cases hl : linesHeld r.lstate
  · refine .in_place (fun _ => ?_) (fun _ => ?_) (fun l => (ho l).trans ?_) hs hd
    · simp [hc, microprogram, configureRom]
    · simp [runsLegally, hc, hf, hl]
    · simp [ownedByPlace, hc, hl]
  · refine .in_place (fun _ => ?_) (fun _ => ?_) (fun l => (ho l).trans ?_) hs hd
    · simp [hc, microprogram, configureRom]
    · simp [runsLegally, hc, hf]
    · simp [ownedByPlace, hc, hl]

/-- TEARDOWN begins its releases where the lines are held, and else ends at once (41_pin_config.md R103). -/
theorem LifecycleInv.beginTeardown {r : Srcp} (hc : r.cur = .teardown)
    (ho : ∀ l, owned r l = linesHeld r.lstate) (hs : r.rawValid = true → r.lstate = .ready) (hd : r.dcnt = 0) :
    LifecycleInv (Machine.beginTeardown r) := by
  unfold Machine.beginTeardown
  cases hl : linesHeld r.lstate
  · exact .at_rest rfl (fun l => (ho l).trans hl) (fun h => by cases h) hd
  · refine .in_place (fun _ => upc_zero_inside (by simp [hc])) (fun _ => ?_) (fun l => (ho l).trans ?_) hs hd
    · simp [runsLegally, hc, hl]
    · simp [ownedByPlace, hc, hl]

/-- Acceptance of a command where it is legal (60_exceptions.md R151, R152). -/
theorem LifecycleInv.accepted {r : Srcp} (h : LifecycleInv r) (hb : r.busy = false) {op : Op}
    (hl : legal op r.lstate r.rawValid = true) (imm : Half) :
    LifecycleInv (acceptedBy imm op { r with cur := op }) := by
  have ho := h.owned_at_rest hb
  have hs := h.sample_only_in_ready
  have hd := h.no_wait_left
  cases op
  case nop => exact .at_rest hb ho hs hd
  case configure =>
    have hf : r.lstate ≠ .failed := by simpa [legal] using hl
    exact .beginConfigure rfl hf ho hs hd
  case idle => exact .in_place (fun _ => upc_zero_inside (op := .idle) (by decide)) (fun _ => hl) ho hs hd
  case poll =>
    have hready : r.lstate = .ready := by simpa [legal] using hl
    exact .in_place (fun _ => upc_zero_inside (op := .poll) (by decide)) (fun _ => hready) ho hs hd
  case decode =>
    have hsample : linesHeld r.lstate = true ∧ r.rawValid = true := by simpa [legal] using hl
    exact .in_place (fun _ => upc_zero_inside (op := .decode) (by decide)) (fun _ => hsample) ho hs hd
  case decodeImm => exact .in_place (fun _ => upc_zero_inside (op := .decodeImm) (by decide)) (fun _ => hl) ho hs hd
  case teardown => exact .beginTeardown rfl ho hs hd

theorem LifecycleInv.turnedAway {s t : State} (h : LifecycleInv s.srcp) (ha : TurnedAway s t) :
    LifecycleInv t.srcp := by
  obtain ⟨e, w, u, he, hu, ht⟩ := ha
  exact h.congr (by rw [ht, lifecyclePart_raiseErr he, hu])

theorem LifecycleInv.commandRuns {s t : State} (h : LifecycleInv s.srcp) (hc : CommandRuns s t) :
    LifecycleInv t.srcp := by
  rcases hc.srcp_cases with haway | ⟨op, imm, hb, hl, ht⟩
  · exact h.turnedAway haway
  · rw [ht]; exact h.accepted hb hl imm

theorem LifecycleInv.outsideActs {s t : State} (h : LifecycleInv s.srcp) (ha : OutsideActs s t) :
    LifecycleInv t.srcp := by
  rcases ha.srcp_cases with ht | haway | ⟨v, rest, -, ht⟩ | ⟨rest, -, ht⟩
  · rw [ht]; exact h
  · exact h.turnedAway haway
  · rw [ht]; exact h.congr rfl
  · rw [ht]; exact lifecycleInv_reset

/-! ### SEQ moves on -/

/-- A command that may run at UPC may run later in its microprogram. -/
theorem runsLegally_later {r : Srcp} (h : runsLegally r) {u : BitVec 7} (hu : r.upc.toNat ≤ u.toNat) :
    runsLegally { r with upc := u } := by
  unfold runsLegally at h ⊢
  cases hc : r.cur <;> simp only [hc] at h ⊢
  case configure => exact ⟨h.1, fun hh => (h.2 hh).trans hu⟩
  all_goals exact h

/-- No completion effect writes OWNED or DCNT. -/
theorem completion_keeps (r : Srcp) : (∀ l, owned (completion r) l = owned r l) ∧ (completion r).dcnt = r.dcnt := by
  unfold completion
  split
  case h_2 => split <;> exact ⟨fun _ => rfl, rfl⟩
  all_goals exact ⟨fun l => by cases l <;> rfl, rfl⟩

/-- A command's end leaves a valid sample in READY alone (43_decode.md R137). -/
theorem completion_sample {r : Srcp} (hrun : runsLegally r) (hs : r.rawValid = true → r.lstate = .ready)
    (hv : (completion r).rawValid = true) : (completion r).lstate = .ready := by
  unfold runsLegally at hrun
  cases hc : r.cur <;> simp only [completion, hc] at hrun hv ⊢
  case configure =>
    cases hl : r.lstate <;> simp only [hl] at hv ⊢ <;> have hready := hs hv <;> rw [hl] at hready <;> cases hready
  case poll => exact hrun
  case decode => exact hs hv
  case decodeImm => exact hs hv
  case teardown => cases hv

/-- SEQ's move, where the micro-operation left OWNED as the place after it says. -/
theorem LifecycleInv.moves_on {r : Srcp} (hrun : runsLegally r)
    (ho : ∀ l, owned r l = ownedByPlace (advance r) l) (hs : r.rawValid = true → r.lstate = .ready)
    (hd : r.dcnt = 0) : LifecycleInv (advance r) := by
  rcases Nat.lt_or_ge (r.upc.toNat + 1) (microprogram r.cur).length with hin | hlast
  · have hupc := upc_succ_toNat r hin
    rw [advance_inside r hin] at ho ⊢
    refine .in_place (fun _ => ?_) (fun _ => runsLegally_later hrun ?_) ho hs hd
    · rw [hupc]; exact hin
    · rw [hupc]; exact Nat.le_succ _
  · obtain ⟨hown, hdcnt⟩ := completion_keeps r
    rw [advance_last r hlast] at ho ⊢
    refine .at_rest rfl (fun l => (hown l).trans ?_) (completion_sample hrun hs) (hdcnt.trans hd)
    simpa [ownedByPlace] using ho l

/-! ### What the place in the microprogram says SEQ runs -/

/-- The micro-operations that write OWNED. -/
def ownedWriters : List Instr :=
  [.lacqClk, .lacqLatch, .lacqData] ++ [.lrelClk, .lrelLatch, .lrelData]

/-- CONFIGURE acquires line l at UPC lineIndex l and TEARDOWN releases it at UPC lineIndex l + 2; nothing else in a
microprogram writes OWNED (41_pin_config.md R101 to R103, 42_poll.md R111, 43_decode.md R137). -/
theorem microprogram_place_cases {op : Op} {n : Nat} {b : Byte} {i : Instr} (hf : (microprogram op)[n]? = some b)
    (hd : decodeMicroOp b = .ok i) :
    (i ∉ ownedWriters ∧ (op = .configure → 3 ≤ n) ∧ (op = .teardown → n ≤ 1)) ∨
    (op = .configure ∧ ∃ l, n = lineIndex l ∧ ∀ s, exec i s = .next (acquireLine l s)) ∨
    (op = .teardown ∧ ∃ l, n = lineIndex l + 2 ∧ ∀ s, exec i s = .next (releaseLine l s)) := by
  have hm := mem_microOpTable hd
  obtain ⟨hlt, hb⟩ := List.getElem?_eq_some_iff.mp hf
  have plain (h : ∀ p ∈ microOpTable, p.1 ∈ microprogram op → p.2 ∉ ownedWriters) : i ∉ ownedWriters :=
    h _ hm (List.mem_of_getElem? hf)
  cases op
  case nop => cases hf
  case configure =>
    have hn : n < 6 := hlt
    interval_cases n <;> cases hf <;> cases hd
    · exact .inr (.inl ⟨rfl, .clk, rfl, fun _ => rfl⟩)
    · exact .inr (.inl ⟨rfl, .latch, rfl, fun _ => rfl⟩)
    · exact .inr (.inl ⟨rfl, .data, rfl, fun _ => rfl⟩)
    all_goals exact .inl (by decide)
  case teardown =>
    have hn : n < 5 := hlt
    interval_cases n <;> cases hf <;> cases hd
    · exact .inl (by decide)
    · exact .inl (by decide)
    · exact .inr (.inr ⟨rfl, .clk, rfl, fun _ => rfl⟩)
    · exact .inr (.inr ⟨rfl, .latch, rfl, fun _ => rfl⟩)
    · exact .inr (.inr ⟨rfl, .data, rfl, fun _ => rfl⟩)
  all_goals exact .inl ⟨plain (by decide), nofun, nofun⟩

/-! ### SEQ's turn in a microprogram -/

/-- Where the micro-operation at UPC writes no OWNED bit, OWNED is as the next place says (41_pin_config.md R104). -/
theorem ownedByPlace_advance {r : Srcp} (hb : r.busy = true) (hrun : runsLegally r)
    (hc3 : r.cur = .configure → 3 ≤ r.upc.toNat) (ht1 : r.cur = .teardown → r.upc.toNat ≤ 1) (l : Line) :
    ownedByPlace (advance r) l = ownedByPlace r l := by
  have hl2 := lineIndex_le l
  rcases Nat.lt_or_ge (r.upc.toNat + 1) (microprogram r.cur).length with hin | hlast
  · have hupc := upc_succ_toNat r hin
    rw [advance_inside r hin]
    cases hc : r.cur <;> simp only [ownedByPlace, hb, hc, hupc, if_true]
    case configure =>
      have := hc3 hc
      rw [decide_eq_true (show lineIndex l < r.upc.toNat + 1 by omega),
        decide_eq_true (show lineIndex l < r.upc.toNat by omega)]
    case teardown =>
      have := ht1 hc
      rw [decide_eq_true (show r.upc.toNat + 1 ≤ lineIndex l + 2 by omega),
        decide_eq_true (show r.upc.toNat ≤ lineIndex l + 2 by omega)]
  · rw [advance_last r hlast]
    unfold runsLegally at hrun
    cases hc : r.cur <;> simp only [ownedByPlace, completion, hb, hc, if_true] at hrun ⊢
    case configure =>
      have := hc3 hc
      rw [decide_eq_true (show lineIndex l < r.upc.toNat by omega), Bool.or_true]
      cases hl : r.lstate <;> simp [hl, linesHeld] at hrun ⊢
    case idle => exact hrun.symm
    case teardown =>
      have := ht1 hc
      rw [hc] at hlast
      exact absurd hlast (by simp [microprogram, teardownRom]; omega)
    all_goals simp

/-- SEQ's move past a micro-operation that writes DCNT and SHIFT at most. -/
theorem LifecycleInv.past_plain {r : Srcp} (h : LifecycleInv r) (hb : r.busy = true) (hm : lineMissing r = false)
    (hc3 : r.cur = .configure → 3 ≤ r.upc.toNat) (ht1 : r.cur = .teardown → r.upc.toNat ≤ 1) {d : Nat} (hd : d = 0)
    (v : Half) : LifecycleInv (advance { r with dcnt := d, shift := v }) := by
  have hrun : runsLegally { r with dcnt := d, shift := v } := h.runs_legally hb
  refine .moves_on hrun (fun l => ?_) h.sample_only_in_ready hd
  rw [ownedByPlace_advance (r := { r with dcnt := d, shift := v }) hb hrun hc3 ht1]
  exact h.owned_as_lifecycle (by simp [releasing, hm]) l

/-- A LACQ of CONFIGURE's acquiring path moves the place past its line (41_pin_config.md R101). -/
theorem ownedByPlace_advance_acquiring {r : Srcp} (hb : r.busy = true) (hc : r.cur = .configure)
    (hl : linesHeld r.lstate = false) (hu : r.upc.toNat ≤ 2) (m : Line) :
    ownedByPlace (advance r) m = decide (lineIndex m < r.upc.toNat + 1) := by
  have hin : r.upc.toNat + 1 < (microprogram r.cur).length := by
    rw [hc]
    exact Nat.lt_of_le_of_lt (Nat.succ_le_succ hu) (by decide)
  have hupc := upc_succ_toNat r hin
  rw [advance_inside r hin]
  simp only [ownedByPlace, hb, hc, hl, hupc, if_true, Bool.false_or]

/-- A micro-operation of TEARDOWN moves the place past a release, or to the end, where no line is held
(41_pin_config.md R103). -/
theorem ownedByPlace_advance_teardown {r : Srcp} (hb : r.busy = true) (hc : r.cur = .teardown) (m : Line) :
    ownedByPlace (advance r) m = decide (r.upc.toNat + 1 ≤ lineIndex m + 2) := by
  have hm := lineIndex_le m
  rcases Nat.lt_or_ge (r.upc.toNat + 1) (microprogram r.cur).length with hin | hlast
  · have hupc := upc_succ_toNat r hin
    rw [advance_inside r hin]
    simp only [ownedByPlace, hb, hc, hupc, if_true]
  · have h5 : 5 ≤ r.upc.toNat + 1 := by rw [hc] at hlast; exact hlast
    rw [advance_last r hlast, decide_eq_false (by omega)]
    simp [ownedByPlace, completion, hc, linesHeld]

/-- A failed CONFIGURE ends in FAILED with no line owned (60_exceptions.md R155). -/
theorem LifecycleInv.fails {e : ErrCode} (he : e = .resource ∨ e = .alloc) {s : State}
    (ho : ∀ m, owned s.srcp m = false) (hv : s.srcp.rawValid = false) (hd : s.srcp.dcnt = 0) :
    LifecycleInv (failConfigure e s).srcp := by
  have hkeep (m : Line) : owned (failConfigure e s).srcp m = owned s.srcp m := by
    rcases he with rfl | rfl <;> cases m <;> rfl
  rcases he with rfl | rfl <;>
    exact .at_rest rfl (fun m => (hkeep m).trans (ho m)) (fun h => absurd (hv.symm.trans h) (by decide)) hd

/-- CONFIGURE at the LACQ of line l, with none missing: it is acquiring, and owns exactly the lines before l
(41_pin_config.md R101). -/
structure AtLacq (l : Line) (r : Srcp) : Prop where
  busy : r.busy = true
  cur : r.cur = .configure
  upc : r.upc.toNat = lineIndex l
  not_held : linesHeld r.lstate = false
  not_failed : r.lstate ≠ .failed
  earlier_owned : ∀ m, owned r m = decide (lineIndex m < lineIndex l)
  no_sample : r.rawValid = false
  no_wait : r.dcnt = 0

theorem LifecycleInv.atLacq {r : Srcp} (h : LifecycleInv r) (hb : r.busy = true) (hm : lineMissing r = false)
    (hc : r.cur = .configure) {l : Line} (hu : r.upc.toNat = lineIndex l) : AtLacq l r := by
  have hrun := h.runs_legally hb
  simp only [runsLegally, hc] at hrun
  obtain ⟨hf, h3⟩ := hrun
  have hl : linesHeld r.lstate = false := Bool.eq_false_iff.mpr fun hh => by
    have := h3 hh
    have := lineIndex_le l
    omega
  refine ⟨hb, hc, hu, hl, hf, fun m => ?_, h.no_sample hl, h.no_wait_left⟩
  rw [h.owned_as_lifecycle (by simp [releasing, hm]) m]
  simp [ownedByPlace, hb, hc, hl, hu]

/-- UPC moves past a LACQ inside CONFIGURE's microprogram. -/
theorem AtLacq.inside {l : Line} {r : Srcp} (h : AtLacq l r) : r.upc.toNat + 1 < (microprogram r.cur).length := by
  rw [h.cur, h.upc]
  exact Nat.lt_of_le_of_lt (Nat.succ_le_succ (lineIndex_le l)) (by decide)

/-- A granted LACQ (40_line_ops.md R90). -/
theorem AtLacq.granted {l : Line} {r : Srcp} (h : AtLacq l r) : LifecycleInv (advance (setOwned l true r)) := by
  obtain ⟨kcur, kupc, kbusy, kl, kv, kd⟩ := setOwned_keeps l true r
  refine .moves_on ?_ (fun m => ?_) (fun hv => ?_) (kd.trans h.no_wait)
  · simp [runsLegally, kcur, kl, h.cur, h.not_failed, h.not_held]
  · have hu : (setOwned l true r).upc.toNat ≤ 2 := by rw [kupc, h.upc]; exact lineIndex_le l
    rw [ownedByPlace_advance_acquiring (kbusy.trans h.busy) (kcur.trans h.cur) (kl ▸ h.not_held) hu m, owned_setOwned,
      kupc, h.upc, h.earlier_owned m]
    split
    case isTrue hml => simp [hml]
    case isFalse hml =>
      have := lineIndex_ne hml
      exact decide_eq_decide.mpr (by omega)
  · rw [kv, h.no_sample] at hv; cases hv

/-- A denied LACQ with a line to relinquish: UPC advances into the release steps (10_state.md R35; log 9). -/
theorem AtLacq.denied {l : Line} {r : Srcp} (h : AtLacq l r) (hsome : ∃ m, owned r m = true) :
    LifecycleInv (advance r) := by
  have hl2 := lineIndex_le l
  have hupc : (r.upc + 1#7).toNat = lineIndex l + 1 := h.upc ▸ upc_succ_toNat r h.inside
  rw [advance_inside r h.inside]
  refine .among_releases h.busy h.not_failed ?_ hsome ⟨?_, fun m hle => ?_⟩
    (fun hv => absurd (h.no_sample.symm.trans hv) (by decide)) h.no_wait
  · refine (lineMissing_iff _).mpr ⟨h.cur, h.not_held, l, ?_, (h.earlier_owned l).trans (by simp)⟩
    simp only [hupc]; omega
  · simp only [hupc]; omega
  · simp only [hupc] at hle
    exact (h.earlier_owned m).trans (decide_eq_false (by omega))

/-- LACQ at its place on the acquiring path, granted or denied (40_line_ops.md R90, 41_pin_config.md R101). -/
theorem LifecycleInv.acquires {s : State} {l : Line} (h : AtLacq l s.srcp) :
    LifecycleInv (acquireLine l s).srcp := by
  rcases acquireLine_cases l s with ⟨hown, -⟩ | ⟨-, -, ha⟩ | ⟨-, -, ha⟩
  · simp [h.earlier_owned l] at hown
  · rw [ha]; exact h.granted
  · rw [ha]
    rcases denyLine_cases { s with env := tookGrant s.env } with ⟨hnone, hn⟩ | ⟨hsome, hn⟩ <;> rw [hn]
    · exact .fails (.inl rfl) hnone h.no_sample h.no_wait
    · exact h.denied hsome

/-- LREL at its place in TEARDOWN (41_pin_config.md R103). -/
theorem LifecycleInv.relinquishes {s : State} (h : LifecycleInv s.srcp) (hb : s.srcp.busy = true)
    (hm : lineMissing s.srcp = false) (hc : s.srcp.cur = .teardown) {l : Line}
    (hu : s.srcp.upc.toNat = lineIndex l + 2) : LifecycleInv (releaseLine l s).srcp := by
  have hrun := h.runs_legally hb
  have hs := h.sample_only_in_ready
  have hd := h.no_wait_left
  have ho (m : Line) : owned s.srcp m = decide (lineIndex l ≤ lineIndex m) := by
    rw [h.owned_as_lifecycle (by simp [releasing, hm]) m]
    simp [ownedByPlace, hb, hc, hu]
  rcases releaseLine_cases l s with ⟨-, ha⟩ | ⟨hcc, -⟩ | ⟨hcc, -⟩
  · obtain ⟨kcur, kupc, kbusy, kl, kv, kd⟩ := setOwned_keeps l false s.srcp
    rw [ha]
    refine .moves_on ?_ (fun m => ?_) (by rwa [kv, kl]) (by rwa [kd])
    · simpa [runsLegally, kcur, kl, hc] using hrun
    · rw [ownedByPlace_advance_teardown (by rwa [kbusy]) (by rwa [kcur]) m, owned_setOwned, kupc, hu, ho m]
      split
      case isTrue hml => simp [hml]
      case isFalse hml =>
        have := lineIndex_ne hml
        exact decide_eq_decide.mpr (by omega)
  · rw [hc] at hcc; cases hcc
  · rw [hc] at hcc; cases hcc

/-! ### The release steps of a failed CONFIGURE -/

/-- Where CONFIGURE has failed with a line left to relinquish, its release steps fit (41_pin_config.md R101), and once
that line is relinquished one is missing. -/
theorem LifecycleInv.failed_fits {s : State} (h : LifecycleInv s.srcp) (hb : s.srcp.busy = true)
    (hfail : configureFailed s = true) {l : Line} (hl : owned s.srcp l = true) :
    ReleasesFit s.srcp ∧ lineMissing (setOwned l false s.srcp) = true := by
  obtain ⟨kcur, kupc, -, kl, -, -⟩ := setOwned_keeps l false s.srcp
  rw [lineMissing_iff, kcur, kupc, kl]
  simp only [configureFailed, Bool.or_eq_true, Bool.and_eq_true] at hfail
  rcases hfail with hm | ⟨hdue, -⟩
  · obtain ⟨hc, hheld, m, hmu, hmo⟩ := (lineMissing_iff _).mp hm
    refine ⟨h.releases_fit ((releasing_iff _).mpr ⟨hb, hm, l, hl⟩), hc, hheld, m, hmu, ?_⟩
    rw [owned_setOwned, hmo, ite_self]
  · obtain ⟨hc, hheld, hu, -⟩ := (sinkDue_iff _).mp hdue
    have hu3 : s.srcp.upc.toNat = 3 := by rw [hu]; rfl
    have hlt (m : Line) : lineIndex m < s.srcp.upc.toNat := hu3 ▸ Nat.lt_succ_of_le (lineIndex_le m)
    exact ⟨⟨hu3.le, fun m hle => absurd (hlt m) (Nat.not_lt.mpr hle)⟩, hc, hheld, l, hlt l, by simp [owned_setOwned]⟩

/-- A release step (41_pin_config.md R101; log 9): the next one follows, or CONFIGURE ends in FAILED. -/
theorem LifecycleInv.releases {s u : State} {l : Line} (h : LifecycleInv s.srcp) (hb : s.srcp.busy = true)
    (hn : nextRelease s = some l) (hsame : u.srcp = s.srcp) : LifecycleInv (releaseLine l u).srcp := by
  obtain ⟨hc, hheld, -, hl⟩ := nextRelease_some hn
  have hfail : configureFailed s = true := by
    unfold nextRelease at hn
    split at hn
    · assumption
    · cases hn
  obtain ⟨⟨h3, hlater⟩, hmiss⟩ := h.failed_fits hb hfail hl
  have hv := h.no_sample hheld
  obtain ⟨kcur, kupc, kbusy, kl, kv, kd⟩ := setOwned_keeps l false s.srcp
  rw [← hsame] at hc
  rcases releaseLine_cases l u with ⟨hcc, -⟩ | ⟨-, hnone, ha⟩ | ⟨-, hsome, ha⟩
  · exact absurd hc hcc
  · rw [ha]
    rw [hsame] at hnone ⊢
    refine .fails ?_ hnone (kv.trans hv) (kd.trans h.no_wait_left)
    rcases releaseError_cases s.srcp with ⟨-, -, he⟩ | ⟨-, he⟩ <;> simp [he]
  · rw [ha]
    rw [hsame] at hsome ⊢
    have hf : s.srcp.lstate ≠ .failed := by
      have hrun := h.runs_legally hb
      rw [← hsame] at hrun ⊢
      simp only [runsLegally, hc] at hrun
      exact hrun.1
    refine .among_releases (kbusy.trans hb) (by rwa [kl]) hmiss hsome ⟨by rwa [kupc], fun m hle => ?_⟩
      (fun hvv => by rw [kv, hv] at hvv; cases hvv) (kd.trans h.no_wait_left)
    rw [kupc] at hle
    rw [owned_setOwned, hlater m hle, ite_self]

/-- Where the registers fit together and no release step is due, no line is missing. -/
theorem LifecycleInv.not_lineMissing {s : State} (h : LifecycleInv s.srcp) (hb : s.srcp.busy = true)
    (hn : nextRelease s = none) : lineMissing s.srcp = false := by
  refine Bool.eq_false_iff.mpr fun hm => ?_
  have hempty : ownedLines s.srcp = [] := by
    rw [(nextRelease_lineMissing hm).1] at hn
    exact List.head?_eq_none_iff.mp hn
  have hrel : releasing s.srcp = false := by simp [releasing, hempty]
  rw [not_lineMissing_of_owned hb (h.owned_as_lifecycle hrel)] at hm
  cases hm

/-! ### Every step -/

theorem LifecycleInv.seqRuns {s t : State} (h : LifecycleInv s.srcp) (hseq : SeqRuns s t) :
    LifecycleInv t.srcp := by
  obtain ⟨-, rest, b, i, -, hb, hf, hd, hx⟩ := hseq
  cases hn : nextRelease s with
  | some l =>
    rw [exec_release hn hf hd hx]
    exact h.releases hb hn rfl
  | none =>
    have hm := h.not_lineMissing hb hn
    rw [fetch_microprogram hn] at hf
    rcases microprogram_place_cases hf hd with ⟨hplain, hc3, ht1⟩ | ⟨hc, l, hu, he⟩ | ⟨hc, l, hu, he⟩
    · rcases exec_microOp_srcp hd hx with ⟨d, v, hdz, ht | ht⟩ | ⟨hacq, -⟩ | ⟨hrel, -⟩
      · rw [ht]; exact h
      · rw [ht]; exact h.past_plain hb hm hc3 ht1 (hdz h.no_wait_left) v
      · exact absurd (List.mem_append_left _ hacq : i ∈ ownedWriters) hplain
      · exact absurd (List.mem_append_right _ hrel : i ∈ ownedWriters) hplain
    · cases (he _).symm.trans hx
      exact LifecycleInv.acquires (s := askSink { s with inputs := rest }) (h.atLacq hb hm hc hu)
    · cases (he _).symm.trans hx
      exact LifecycleInv.relinquishes (s := askSink { s with inputs := rest }) h hb hm hc hu

/-- Settles O51, by the three kinds of step. -/
theorem everyStepKeepsTheLifecycle : Obligations.EveryStepKeepsTheLifecycle := by
  intro s t h hstep
  rcases step_cases hstep with hseq | hcmd | hout
  · exact h.seqRuns hseq
  · exact h.commandRuns hcmd
  · exact h.outsideActs hout

end Sys2Proof.Machine
end

section
/-! No step stops where the registers fit together (10_state.md R35, 40_line_ops.md R98), and the state after reset
satisfies the invariants (10_state.md R46). -/

namespace Sys2Proof.Machine

/-- SEQ always has a micro-operation: a release step, or the one at UPC. -/
theorem LifecycleInv.fetch_some {s : State} (h : LifecycleInv s.srcp) (hb : s.srcp.busy = true) :
    ∃ b, fetch s = some b := by
  cases hn : nextRelease s with
  | some l => exact ⟨_, fetch_release hn⟩
  | none => exact ⟨_, (fetch_microprogram hn).trans (List.getElem?_eq_getElem (h.upc_inside hb))⟩

/-- The turn answers a next state. -/
def Turn.completes (τ : Turn) : Prop := ∃ t, takeTurn τ = .next t

theorem Turn.completes_settled (s : State) : (Turn.settled s).completes := ⟨s, rfl⟩

theorem Turn.completes_run (i : Instr) (s : State) : (Turn.run i s).completes := exec_completes i s

theorem LifecycleInv.seqTurn_completes {s : State} (h : LifecycleInv s.srcp) : (seqTurn s).completes := by
  rcases seqTurn_cases s with ⟨-, he⟩ | ⟨-, hb, ⟨hf, -⟩ | ⟨b, e, hf, hd, -⟩ | ⟨b, i, -, -, he⟩⟩
  · rw [he]; exact Turn.completes_settled s
  · obtain ⟨b, hsome⟩ := h.fetch_some hb
    rw [hf] at hsome; cases hsome
  · obtain ⟨i, hok⟩ := fetch_decodes hf
    rw [hd] at hok; cases hok
  · rw [he]; exact Turn.completes_run i _

/-- HOST's write never stops the machine: a word that is no command is rejected (60_exceptions.md R151). -/
theorem writeTurn_completes (off : Nat) (v : Word) (s : State) : (writeTurn off v s).completes := by
  unfold writeTurn issueTurn
  split
  · split
    · exact Turn.completes_run _ _
    · exact Turn.completes_settled _
  · exact Turn.completes_settled _
  · exact Turn.completes_settled _

/-- No access of HOST's stops the machine: a bad one gets a bus error (60_exceptions.md R159; log 18). -/
theorem accessTurn_completes (a : HostAccess) (s : State) : (accessTurn a s).completes := by
  unfold accessTurn
  split_ifs
  · exact Turn.completes_settled _
  · exact Turn.completes_settled _
  · exact Turn.completes_settled _
  · exact writeTurn_completes _ _ _
  · exact Turn.completes_settled _

/-- Settles O55, by whose turn it is. -/
theorem noStepStops : Obligations.NoStepStops := by
  intro s h
  show (nextTurn s).completes
  unfold nextTurn
  split
  case h_1 => exact h.seqTurn_completes
  case h_2 rest _ => exact LifecycleInv.seqTurn_completes (s := { s with inputs := rest }) h
  case h_3 => exact accessTurn_completes _ _
  case h_4 =>
    unfold waitIdleTurn
    split
    · exact h.seqTurn_completes
    · exact Turn.completes_settled _
  all_goals exact Turn.completes_settled _

/-- Settles O5: the registers by definition, and what HOST reads of them. -/
theorem resetValues : Obligations.ResetValues :=
  ⟨rfl, rfl, rfl, rfl, by decide, by decide, by decide, by decide⟩

/-- At reset no rule fixes a latch or a direction: SRCP is UNCONFIGURED with BUSY = 0. -/
theorem linesInv_reset : LinesInv State.reset where
  clk_level := fun _ h => by cases h
  latch_level := fun _ h => by cases h
  directions := fun l h => by cases l <;> cases h

/-- P1's parameters keep the constraints of 00_scope.md R9 (log 1, log 2). -/
theorem exampleParams_wf : exampleParams.wf = true := by decide

/-- Settles O50, invariant by invariant. -/
theorem invariantsHoldAtReset : Obligations.InvariantsHoldAtReset :=
  ⟨lifecycleInv_reset, fun _ => rfl, rfl, linesInv_reset, exampleParams_wf⟩

end Sys2Proof.Machine
end

section
/-! HOST's reads (20_memory.md R52) and its bad accesses (R51): what each is answered, with nothing else changed. -/

namespace Sys2Proof.Machine

/-- What the window holds at each offset (20_memory.md R52), by number (10_state.md R26 to R30). -/
theorem hostRead_window (r : Srcp) (off : Nat) :
    hostRead r off =
      if off = 0x04 then statusWord r
      else if off = 0x08 then 0x0000#16 ++ r.raw
      else if off = 0x0C then 0x000112E1#32
      else if off = 0x10 then 0x00190001#32
      else if off = 0x14 then 0x00000728#32
      else if off = 0x18 then r.errcmd
      else 0x00000000#32 := by
  unfold hostRead
  split
  case h_3 => simp [BitVec.setWidth_eq_append]
  case h_8 _ h4 h8 hC h10 h14 h18 => rw [if_neg h4, if_neg h8, if_neg hC, if_neg h10, if_neg h14, if_neg h18]
  all_goals rfl

/-- While RESET is released HOST reads the registers as they stand (70_reset_and_hazards.md R180). -/
theorem readable_of_released {s : State} (h : s.resetLine = false) : readable s = s.srcp := by
  simp [readable, h]

/-- Settles O39: the read's turn is the answer alone, and the answer is what the window holds. -/
theorem hostReadsHaveNoSideEffect : Obligations.HostReadsHaveNoSideEffect := by
  intro s off rest hr hlt h4 hi
  refine ⟨hostRead s.srcp off, ?_, hostRead_window s.srcp off⟩
  rw [step, nextTurn_hostFetch hlt h4 hi, readable_of_released hr]
  rfl

/-- An address is in the window exactly where it is one of its 64 bytes (20_memory.md R50). -/
theorem inWindow_iff (ps : Params) (addr : Nat) :
    inWindow ps addr = true ↔ ps.blockBase ≤ addr ∧ addr < ps.blockBase + 64 := by
  simp [inWindow]

/-- An access is bad exactly where its width or its alignment is (20_memory.md R51). -/
theorem accessWhole_eq_false_iff (ps : Params) (a : HostAccess) :
    accessWhole ps a = false ↔ a.bytes ≠ 4 ∨ (a.addr - ps.blockBase) % 4 ≠ 0 := by
  rw [accessWhole, Bool.and_eq_false_iff, beq_eq_false_iff_ne, beq_eq_false_iff_ne]

/-- A bad access in the window is answered and is over (60_exceptions.md R159; log 18). -/
theorem accessTurn_of_not_whole {s : State} {a : HostAccess} (hw : inWindow s.params a.addr = true)
    (ha : accessWhole s.params a = false) : accessTurn a s = .settled (respond .busError s) := by
  simp [accessTurn, hw, ha]

/-- Settles O41: read or write, RESET held or released, the turn ends at the check of the access's form. -/
theorem busErrorChangesNothing : Obligations.BusErrorChangesNothing := by
  intro s a rest hlo hhi hbad hi
  have hw : inWindow s.params a.addr = true := (inWindow_iff s.params a.addr).2 ⟨hlo, hhi⟩
  have ha : accessWhole s.params a = false := (accessWhole_eq_false_iff s.params a).2 hbad
  have hturn : nextTurn s = accessTurn a { s with inputs := rest } := by rw [nextTurn, hi]
  rw [step, hturn, accessTurn_of_not_whole (s := { s with inputs := rest }) hw ha]
  rfl

end Sys2Proof.Machine
end

section
/-! The decoder and the encoder (30_encoding.md R70 to R78). A command word is its three fields; a micro-operation byte
is found in the table of R77. -/

namespace Sys2Proof

/-! ### Command words -/

/-- The opcodes 0x0 to 0x6 are those of the seven commands (30_encoding.md R71). -/
theorem exists_opCode {op : BitVec 4} (h : op.toNat ≤ 6) : ∃ o, opCode o = op := by
  have hop : op = BitVec.ofNat 4 op.toNat := by simp
  rw [hop]
  interval_cases op.toNat
  exacts [⟨.nop, rfl⟩, ⟨.configure, rfl⟩, ⟨.idle, rfl⟩, ⟨.poll, rfl⟩, ⟨.decode, rfl⟩, ⟨.decodeImm, rfl⟩, ⟨.teardown, rfl⟩]

/-- The opcode map takes an OP of 0x0 to 0x6 and no other, whatever IMM16 is (30_encoding.md R71, R73). -/
theorem decodeOpcode_isOk_iff (op : BitVec 4) (imm : BitVec 16) :
    (∃ i, decodeOpcode op imm = .ok i) ↔ op.toNat ≤ 6 := by
  constructor
  · rintro ⟨i, h⟩
    unfold decodeOpcode at h
    split at h
    case h_8 => cases h
    all_goals omega
  · intro h
    obtain ⟨o, rfl⟩ := exists_opCode h
    cases o <;> exact ⟨_, rfl⟩

/-- The encoder writes an instruction of the opcode map with the fields it was read from; where OP ≠ 0x5 it writes
IMM16 = 0. -/
theorem encode_of_decodeOpcode {op : BitVec 4} {imm : BitVec 16} {i : Instr} (h : decodeOpcode op imm = .ok i)
    (himm : imm = 0#16 ∨ op = 5#4) : encode i = .command (commandWord op imm) := by
  obtain ⟨o, rfl⟩ := exists_opCode ((decodeOpcode_isOk_iff op imm).1 ⟨i, h⟩)
  cases o
  case decodeImm => cases h; rfl
  all_goals
    cases h
    obtain rfl := himm.resolve_right (by decide)
    rfl

/-- The decoder reads a command word by its fields: clauses 2 and 3 of 30_encoding.md R72, then the opcode map. -/
theorem decodeCommand_eq_ok_iff (w : Word) (i : Instr) :
    decodeCommand w = .ok i ↔
      commandRsvd w = 0#12 ∧ (commandImm w = 0#16 ∨ commandOp w = 5#4) ∧
        decodeOpcode (commandOp w) (commandImm w) = .ok i := by
  have hop (h : decodeOpcode (commandOp w) (commandImm w) = .ok i) : (commandOp w).toNat ≤ 6 :=
    (decodeOpcode_isOk_iff _ _).1 ⟨i, h⟩
  unfold decodeCommand
  simp only
  split
  next hr => simp [hr]
  next hr =>
    split
    next hstray => simp only [reduceCtorEq, false_iff]; tauto
    next hstray => tauto

/-- Decoding a word and encoding a command are inverse (30_encoding.md R70 to R72). -/
theorem decodeCommand_iff_encode (w : Word) (i : Instr) : decodeCommand w = .ok i ↔ encode i = .command w := by
  constructor
  · intro h
    obtain ⟨hrsvd, himm, hop⟩ := (decodeCommand_eq_ok_iff w i).1 h
    rw [encode_of_decodeOpcode hop himm, commandWord_of_fields w hrsvd]
  · intro h
    cases i <;> simp only [encode, Code.command.injEq, reduceCtorEq] at h <;> subst h
    case decodeImm imm =>
      rw [decodeCommand_eq_ok_iff, commandRsvd, commandOp, commandImm, extract_rsvd_commandWord,
        extract_op_commandWord, extract_imm_commandWord]
      exact ⟨rfl, .inr rfl, rfl⟩
    all_goals rfl

/-- A word has an instruction exactly where it meets the three clauses of 30_encoding.md R72. -/
theorem decodeCommand_isOk_iff (w : Word) :
    (∃ i, decodeCommand w = .ok i) ↔
      (commandOp w).toNat ≤ 6 ∧ (commandRsvd w).toNat = 0 ∧ ((commandImm w).toNat = 0 ∨ (commandOp w).toNat = 5) := by
  simp only [decodeCommand_eq_ok_iff, exists_and_left, decodeOpcode_isOk_iff, ← BitVec.toNat_inj]
  exact ⟨fun ⟨hr, hi, ho⟩ => ⟨ho, hr, hi⟩, fun ⟨ho, hr, hi⟩ => ⟨hr, hi, ho⟩⟩

/-! ### Micro-operation bytes -/

/-- Each entry of the table stands under the byte its fields make, which 30_encoding.md R77 admits. -/
theorem microOpTable_entry {e : Byte × Instr} (h : e ∈ microOpTable) :
    encode e.2 = .microOp e.1 ∧ legalMicroOp e.1 = true := by
  revert e; decide

/-- Decoding a byte and encoding a micro-operation are inverse (30_encoding.md R76 to R78). -/
theorem decodeMicroOp_iff_encode (b : Byte) (i : Instr) : decodeMicroOp b = .ok i ↔ encode i = .microOp b := by
  constructor
  · intro h
    exact (microOpTable_entry (mem_microOpTable h)).1
  · intro h
    cases i <;> simp only [encode, Code.microOp.injEq, reduceCtorEq] at h <;> subst h
    all_goals rfl

/-- A byte is its three fields (30_encoding.md R76). -/
theorem microByte_of_fields (b : Byte) : microByte (microUopc b) (microLine b) (microArg b) = b := by
  unfold microByte microUopc microLine microArg
  rw [BitVec.extractLsb'_append_extractLsb'_eq_extractLsb' (show 5 = 3 + 2 from rfl),
    BitVec.extractLsb'_append_extractLsb'_eq_extractLsb' (show 3 = 0 + 3 from rfl)]
  exact BitVec.extractLsb'_eq_self

/-- LINE's codes are all but 3 (30_encoding.md R76). -/
theorem exists_lineCode {v : BitVec 2} (h : v ≠ 3#2) : ∃ l, lineCode l = v := by
  have hv : v = 0#2 ∨ v = 1#2 ∨ v = 2#2 ∨ v = 3#2 := by revert v; decide
  obtain rfl | rfl | rfl | rfl := hv
  exacts [⟨.clk, rfl⟩, ⟨.latch, rfl⟩, ⟨.data, rfl⟩, absurd rfl h]

/-- The delay classes' codes are 0 to 3 (30_encoding.md R77). -/
theorem exists_classCode {v : BitVec 3} (h : v < 4#3) : ∃ c, classCode c = v := by
  have hv : v = 0#3 ∨ v = 1#3 ∨ v = 2#3 ∨ v = 3#3 := by revert v; decide
  obtain rfl | rfl | rfl | rfl := hv
  exacts [⟨.tLH, rfl⟩, ⟨.tLL, rfl⟩, ⟨.tCL, rfl⟩, ⟨.tCH, rfl⟩]

/-- Every combination of fields that 30_encoding.md R77 admits, UOPC by UOPC, is a micro-operation's. -/
theorem exists_encode_of_legalMicroOp {b : Byte} (h : legalMicroOp b = true) : ∃ i, encode i = .microOp b := by
  rw [← microByte_of_fields b]
  unfold legalMicroOp at h
  have huopc : microUopc b = BitVec.ofNat 3 (microUopc b).toNat := by rw [BitVec.ofNat_toNat, BitVec.setWidth_eq]
  have hlt : (microUopc b).toNat < 8 := (microUopc b).isLt
  rw [huopc]
  generalize (microUopc b).toNat = uopc, microLine b = line, microArg b = arg at h hlt ⊢
  interval_cases uopc <;>
    simp only [Bool.and_eq_true, Bool.or_eq_true, beq_iff_eq, bne_iff_ne, decide_eq_true_eq] at h
  -- WAIT
  · obtain ⟨rfl, harg⟩ := h
    obtain ⟨c, rfl⟩ := exists_classCode harg
    cases c
    exacts [⟨.waitTLh, rfl⟩, ⟨.waitTLl, rfl⟩, ⟨.waitTCl, rfl⟩, ⟨.waitTCh, rfl⟩]
  -- LSET
  · obtain ⟨rfl | rfl, rfl⟩ := h
    exacts [⟨.lsetClk, rfl⟩, ⟨.lsetLatch, rfl⟩]
  -- LCLR
  · obtain ⟨rfl | rfl, rfl⟩ := h
    exacts [⟨.lclrClk, rfl⟩, ⟨.lclrLatch, rfl⟩]
  -- SMPL
  · obtain ⟨rfl, rfl⟩ := h
    exact ⟨.smplData, rfl⟩
  -- LCFG
  · obtain ⟨rfl | rfl, rfl⟩ | ⟨rfl, rfl⟩ := h
    exacts [⟨.lcfgClkOut, rfl⟩, ⟨.lcfgLatchOut, rfl⟩, ⟨.lcfgDataIn, rfl⟩]
  -- LACQ
  · obtain ⟨hline, rfl⟩ := h
    obtain ⟨l, rfl⟩ := exists_lineCode hline
    cases l
    exacts [⟨.lacqClk, rfl⟩, ⟨.lacqLatch, rfl⟩, ⟨.lacqData, rfl⟩]
  -- LREL
  · obtain ⟨hline, rfl⟩ := h
    obtain ⟨l, rfl⟩ := exists_lineCode hline
    cases l
    exacts [⟨.lrelClk, rfl⟩, ⟨.lrelLatch, rfl⟩, ⟨.lrelData, rfl⟩]
  -- EMIT
  · obtain ⟨rfl, rfl⟩ := h
    exact ⟨.emit, rfl⟩

/-! ### The statements -/

/-- Settles O1: each of the two encodings on its own; no instruction has a code of both. -/
theorem decodeAndEncodeAgree : Obligations.DecodeAndEncodeAgree
  | .command w, i => decodeCommand_iff_encode w i
  | .microOp b, i => decodeMicroOp_iff_encode b i

/-- Settles O2: the words by their fields; the bytes through the table one way and the encoder the other. -/
theorem decodedCodesAreTheLegalCodes : Obligations.DecodedCodesAreTheLegalCodes := by
  refine ⟨decodeCommand_isOk_iff, fun b => ⟨?_, fun h => ?_⟩⟩
  · rintro ⟨i, h⟩
    exact (microOpTable_entry (mem_microOpTable h)).2
  · obtain ⟨i, hi⟩ := exists_encode_of_legalMicroOp h
    exact ⟨i, (decodeMicroOp_iff_encode b i).2 hi⟩

/-- Settles O3: each of the six is what the encoder writes for its instruction. -/
theorem writtenOutWordsDecode : Obligations.WrittenOutWordsDecode := by
  have reads (i : Instr) : decode (encode i) = .ok i := (decodeAndEncodeAgree (encode i) i).2 rfl
  exact ⟨reads .poll, reads (.decodeImm 0x0030#16), reads .teardown,
    reads .smplData, reads .lcfgLatchOut, reads .lrelData⟩

end Sys2Proof
end

section
/-! A word HOST writes to CMD that is no command (30_encoding.md R72, R73). -/

namespace Sys2Proof.Machine

/-- A word without an instruction is turned away (60_exceptions.md R151). -/
theorem issueTurn_of_not_ok {w : Word} (h : ¬ ∃ i, decodeCommand w = .ok i) (s : State) :
    issueTurn w s = .settled (rejectWord w s) := by
  unfold issueTurn
  split
  next i hi => exact absurd ⟨i, hi⟩ h
  next => rfl

/-- With BUSY = 0 the rejection is ERR_ILLEGAL and ERRCMD, nothing else (60_exceptions.md R154). -/
theorem rejectWord_of_idle {s : State} (h : s.srcp.busy = false) (w : Word) :
    rejectWord w s = { s with srcp := { s.srcp with errIllegal := true, errcmd := w } } := by
  rw [rejectWord, h]
  exact raiseErr_illegal w s

/-- Settles O19: the word has no instruction, so the turn is the rejection alone. -/
theorem illegalWordRaisesErrIllegal : Obligations.IllegalWordRaisesErrIllegal := by
  intro s w rest hr hb hi hw
  have hno : ¬ ∃ i, decodeCommand w = .ok i := mt (decodeCommand_isOk_iff w).1 hw
  rw [step, nextTurn_hostWord (by decide) (by decide) hi, hr, if_neg Bool.false_ne_true, writeTurn,
    issueTurn_of_not_ok hno, takeTurn, rejectWord_of_idle]
  exact hb

end Sys2Proof.Machine
end

section
/-! The line micro-operations (40_line_ops.md R90 to R97): what each does to its own pin, bit or counter, and that nothing
else moves but UPC. -/

namespace Sys2Proof.Machine

/-! ### LSET and LCLR (R93, R94) -/

/-- LSET and LCLR in one shape, by the level they drive. -/
def driveLine (b : Bool) (l : Line) (s : State) : State := if b then setLine l s else clearLine l s

/-- The write moves its line's latch alone, and CTRL sees the lines after it. -/
theorem driveLine_spec (b : Bool) (l : Line) (s : State) (h : ParamsWf s.params) :
    ∃ g c, driveLine b l s = { s with srcp := advance s.srcp, gpio := g, ctrl := c } ∧ g.fsel = s.gpio.fsel ∧
      (∀ q, pinOut g q = if q = linePin s.params l then b else pinOut s.gpio q) ∧
      c = ctrlSees s.ctrl (seenLevel s.params s.gpio s.params.pinClk) (seenLevel s.params g s.params.pinClk)
        (seenLevel s.params g s.params.pinLatch) := by
  cases b
  case true => exact setLine_spec l s h
  case false => exact clearLine_spec l s h

/-- Settles O23: each of the four is `driveLine`, and its write is for the line's pin alone. -/
theorem lsetAndLclrDriveOnlyTheirPin : Obligations.LsetAndLclrDriveOnlyTheirPin := by
  intro s i l b hwf hi
  have hx : exec i s = .next (driveLine b l s) := by
    rcases hi with ⟨rfl, rfl, rfl⟩ | ⟨rfl, rfl, rfl⟩ | ⟨rfl, rfl, rfl⟩ | ⟨rfl, rfl, rfl⟩ <;> rfl
  obtain ⟨g, c, ht, hfsel, hout, rfl⟩ := driveLine_spec b l s (paramsWf_of_wf hwf)
  rw [hx, ht]
  refine ⟨_, rfl, ?_, fun q hq => ?_, fun a => ?_, rfl⟩
  · rw [hout, if_pos rfl]
  · rw [hout, if_neg hq]
  · rw [hfsel]

/-! ### LCFG (R92) -/

/-- The register file after LCFG: the pin's field replaced in its register's word. -/
theorem configureLine_gpio (l : Line) (d : Dir) (s : State) (h : ParamsWf s.params) :
    (configureLine l d s).gpio =
      Gpio.mk (writeWord s.gpio.fsel (fselAddr s.params (linePin s.params l))
        (setField3 (readWord s.gpio.fsel (fselAddr s.params (linePin s.params l)))
          (pinMap s.params (linePin s.params l)).fpos (dirCode d))) s.gpio.out := by
  obtain ⟨c, hc⟩ := configureLine_spec l d s h
  rw [hc]

/-- Settles O24: the word written is the word read with one field replaced, so bits, bytes and fields outside it stay. -/
theorem lcfgWritesOnlyItsField : Obligations.LcfgWritesOnlyItsField := by
  intro s i l d hwf hi
  have hx : exec i s = .next (configureLine l d s) := by
    rcases hi with ⟨rfl, rfl, rfl⟩ | ⟨rfl, rfl, rfl⟩ | ⟨rfl, rfl, rfl⟩ <;> rfl
  have h := paramsWf_of_wf hwf
  have hp := linePin_lt h l
  have hg := configureLine_gpio l d s h
  refine ⟨_, hx, ?_, fun q hq hne => ?_, fun k hk hout => ?_, fun a ha => ?_, ?_, rfl⟩
  · rw [hg, pinFsel_after_field h _ hp _ hp, if_pos rfl]
  · rw [hg, pinFsel_after_field h _ hp _ hq, if_neg hne]
  · rw [hg, readWord_writeWord_same, getLsbD_setField3 _ _ _ _ hk, if_neg (by omega)]
  · rw [hg, readByte_writeWord_outside _ _ _ _ ha]
  · rw [hg]

/-! ### SMPL (R95) -/

/-- When the reference controller sets the data line's level (42_poll.md R121; log 20). -/
theorem ctrlAnswers_iff (s : State) :
    ctrlAnswers s = true ↔
      s.ctrl.attached = true ∧ s.ctrl.k ≤ 15 ∧ pinFsel s.params s.gpio s.params.pinData ≠ 1#3 := by
  simp [ctrlAnswers, pinIsOutput, dirCode, and_assoc]

theorem dataLevel_of_answers {s : State} (h : ctrlAnswers s = true) : dataLevel s = !s.ctrl.creg.getLsbD s.ctrl.k :=
  if_pos h

theorem dataLevel_of_not_answers {s : State} (h : ¬ ctrlAnswers s = true) : dataLevel s = nextLevel s.env :=
  if_neg h

/-- Settles O25: SMPL is one `setBit`, of a level that is the controller's where it answers and else the draw. -/
theorem smplStoresTheInvertedLevel : Obligations.SmplStoresTheInvertedLevel := by
  intro s hwf
  refine ⟨⟨_, congrArg Host.Outcome.next (sampleData_spec s (paramsWf_of_wf hwf)), fun j hj => getLsbD_setBit _ _ _ _ hj⟩,
    fun hsilent => dataLevel_of_not_answers fun ha => ?_,
    fun hatt hk hdir => dataLevel_of_answers ((ctrlAnswers_iff s).2 ⟨hatt, hk, hdir⟩)⟩
  obtain ⟨hatt, hk, hdir⟩ := (ctrlAnswers_iff s).1 ha
  rcases hsilent with hdetached | hspent | houtput
  · exact absurd hatt (by simp [hdetached])
  · omega
  · exact hdir houtput

/-! ### WAIT (R96) -/

/-- ceil(us × F_TICK) is the least number of ticks that lasts `us` microseconds. -/
theorem ticksOf_le_iff (ps : Params) (us n : Nat) : ticksOf ps us ≤ n ↔ us * ps.fTick ≤ n * 1000000 := by
  unfold ticksOf ceilDiv
  generalize us * ps.fTick = a
  split <;> omega

theorem le_ticksOf_iff (ps : Params) (us n : Nat) : n ≤ ticksOf ps us ↔ n * 1000000 < us * ps.fTick + 1000000 := by
  unfold ticksOf ceilDiv
  generalize us * ps.fTick = a
  split <;> omega

theorem classRange_le (c : DelayClass) : (classRange c).1 ≤ (classRange c).2 := by
  cases c <;> decide

/-- A class's range of ticks is not empty. -/
theorem ticksOf_classRange_le (ps : Params) (c : DelayClass) :
    ticksOf ps (classRange c).1 ≤ ticksOf ps (classRange c).2 :=
  (ticksOf_le_iff ..).2 <| (Nat.mul_le_mul_right _ (classRange_le c)).trans ((ticksOf_le_iff ..).1 le_rfl)

/-- Holding a draw to a range gives a number of the range, and leaves a draw of the range as it is (log 12). -/
theorem waitFor_within (c : DelayClass) (s : State) :
    ∃ n : Nat,
      waitFor c s = { s with srcp := advance { s.srcp with dcnt := 0 }, env := tookWait s.env, waited := s.waited + n } ∧
      (classRange c).1 * s.params.fTick ≤ n * 1000000 ∧
      n * 1000000 < (classRange c).2 * s.params.fTick + 1000000 ∧
      ((classRange c).1 * s.params.fTick ≤ nextWait s.env * 1000000 →
        nextWait s.env * 1000000 < (classRange c).2 * s.params.fTick + 1000000 → n = nextWait s.env) := by
  refine ⟨_, waitFor_spec c s, ?_⟩
  simp only [← ticksOf_le_iff, ← le_ticksOf_iff, waitTicks]
  refine ⟨le_max_left _ _, max_le (ticksOf_classRange_le _ c) (min_le_left _ _), fun hlo hhi => ?_⟩
  rw [min_eq_right hhi, max_eq_right hlo]

/-- Settles O26: the four WAITs are `waitFor` of their classes. -/
theorem waitHoldsWithinItsRange : Obligations.WaitHoldsWithinItsRange := by
  intro s i lo hi hclass
  obtain ⟨c, hx, rfl, rfl⟩ : ∃ c, exec i s = .next (waitFor c s) ∧ lo = (classRange c).1 ∧ hi = (classRange c).2 := by
    rcases hclass with ⟨rfl, rfl, rfl⟩ | ⟨rfl, rfl, rfl⟩ | ⟨rfl, rfl, rfl⟩ | ⟨rfl, rfl, rfl⟩
    exacts [⟨.tLH, rfl, rfl, rfl⟩, ⟨.tLL, rfl, rfl, rfl⟩, ⟨.tCL, rfl, rfl, rfl⟩, ⟨.tCH, rfl, rfl, rfl⟩]
  obtain ⟨n, hn, hrange⟩ := waitFor_within c s
  exact ⟨n, hx.trans (congrArg _ hn), hrange⟩

/-! ### LACQ (R90) -/

/-- A line already owned is not requested again. -/
theorem acquireLine_owned {l : Line} {s : State} (h : owned s.srcp l = true) :
    acquireLine l s = { s with srcp := advance s.srcp } := by
  rcases acquireLine_cases l s with ⟨-, heq⟩ | ⟨hno, -, -⟩ | ⟨hno, -, -⟩
  · exact heq
  · exact absurd h (by simp [hno])
  · exact absurd h (by simp [hno])

/-- A granted line becomes owned. -/
theorem acquireLine_granted {l : Line} {s : State} (h : owned s.srcp l = false) (hg : nextGrant s.env = true) :
    acquireLine l s = { s with srcp := advance (setOwned l true s.srcp), env := tookGrant s.env } := by
  rcases acquireLine_cases l s with ⟨hown, -⟩ | ⟨-, -, heq⟩ | ⟨-, hdenied, -⟩
  · exact absurd h (by simp [hown])
  · exact heq
  · exact absurd hg (by simp [hdenied])

/-- Settles O27, line by line. -/
theorem lacqOfAGrantedLine : Obligations.LacqOfAGrantedLine := by
  intro s
  have howned (l : Line) (h : owned s.srcp l = true) :
      Host.Outcome.next (φ := Fault) (ρ := Refusal) (acquireLine l s) = .next { s with srcp := advance s.srcp } :=
    congrArg _ (acquireLine_owned h)
  have hgranted (l : Line) (h : owned s.srcp l = false) (hg : nextGrant s.env = true) :
      Host.Outcome.next (φ := Fault) (ρ := Refusal) (acquireLine l s) =
        .next { s with srcp := advance (setOwned l true s.srcp), env := tookGrant s.env } :=
    congrArg _ (acquireLine_granted h hg)
  exact ⟨howned .clk, howned .latch, howned .data, hgranted .clk, hgranted .latch, hgranted .data⟩

/-! ### LREL (R91) -/

theorem owned_advance (r : Srcp) (l : Line) : owned (advance r) l = owned r l := by
  unfold advance
  split
  · cases l <;> rfl
  · exact Eq.trans (by cases l <;> rfl) ((completion_keeps r).1 l)

theorem owned_raiseErr (e : ErrCode) (w : Word) (s : State) (l : Line) :
    owned (raiseErr e w s).srcp l = owned s.srcp l := by
  cases e <;> cases l <;> rfl

/-- Whatever follows an LREL, it has relinquished its line and no other. -/
theorem owned_releaseLine (l m : Line) (s : State) :
    owned (releaseLine l s).srcp m = if m = l then false else owned s.srcp m := by
  rw [← owned_setOwned]
  rcases releaseLine_cases l s with ⟨-, heq⟩ | ⟨-, -, heq⟩ | ⟨-, -, heq⟩ <;> rw [heq]
  · exact owned_advance _ m
  · exact (owned_raiseErr _ _ _ m).trans (by cases m <;> rfl)

theorem releaseLine_gpio (l : Line) (s : State) : (releaseLine l s).gpio = s.gpio := by
  rcases releaseLine_cases l s with ⟨-, heq⟩ | ⟨-, -, heq⟩ | ⟨-, -, heq⟩ <;> simp [heq]

/-- The lines LREL l leaves owned are the others that were. -/
theorem owned_setOwned_false_iff (l m : Line) (r : Srcp) :
    owned (setOwned l false r) m = true ↔ m ≠ l ∧ owned r m = true := by
  by_cases h : m = l <;> simp [owned_setOwned, h]

/-- Settles O30: by what follows the release, the microprogram, the next release step, or the end of CONFIGURE. -/
theorem lrelRelinquishesItsLine : Obligations.LrelRelinquishesItsLine := by
  refine ⟨rfl, rfl, rfl, fun s i l hi => ?_⟩
  have hx : exec i s = .next (releaseLine l s) := by
    rcases hi with ⟨rfl, rfl⟩ | ⟨rfl, rfl⟩ | ⟨rfl, rfl⟩ <;> rfl
  refine ⟨_, hx, by rw [owned_releaseLine, if_pos rfl], fun m hm => by rw [owned_releaseLine, if_neg hm],
    releaseLine_gpio l s, ?_⟩
  simp only [← owned_setOwned_false_iff]
  rcases releaseLine_cases l s with ⟨hcur, heq⟩ | ⟨hcur, hnone, heq⟩ | ⟨hcur, ⟨m, hm⟩, heq⟩
  · exact ⟨fun _ => heq, fun h => absurd h hcur⟩
  · refine ⟨fun h => absurd hcur h, fun _ => ⟨fun ⟨m, hm⟩ => absurd hm (by simp [hnone]), fun _ => ?_⟩⟩
    rw [heq, failConfigure, encodeWord_configure, releaseError]
  · obtain ⟨hne, hown⟩ := (owned_setOwned_false_iff l m _).1 hm
    exact ⟨fun h => absurd hcur h, fun _ => ⟨fun _ => heq, fun h => absurd hown (by simp [h m hne])⟩⟩

end Sys2Proof.Machine
end

section
/-! Acceptance (60_exceptions.md R151, R152) of the commands of 41_pin_config.md: with BUSY = 0 and the command legal,
CUR is written and then what the command's own acceptance writes. -/

namespace Sys2Proof.Machine

theorem issue_of_legal {op : Op} {s : State} (w : Word) (f : Srcp → Srcp) (hb : s.srcp.busy = false)
    (hl : legal op s.srcp.lstate s.srcp.rawValid = true) :
    issue op w f s = { s with srcp := f { s.srcp with cur := op } } := by
  rw [issue, hb, if_neg Bool.false_ne_true, if_pos hl]

theorem linesHeld_iff (l : LState) : linesHeld l = true ↔ l = .configured ∨ l = .ready := by
  cases l <;> simp [linesHeld]

/-- CONFIGURE begins past its LACQs where the lines are held (41_pin_config.md R101). -/
theorem beginConfigure_held {r : Srcp} (h : linesHeld r.lstate = true) : beginConfigure r = beginAt 3#7 r := by
  rw [beginConfigure, if_pos h]

theorem beginConfigure_not_held {r : Srcp} (h : linesHeld r.lstate = false) : beginConfigure r = beginAt 0#7 r := by
  rw [beginConfigure, h, if_neg Bool.false_ne_true]

/-- TEARDOWN has releases to run where the lines are held (41_pin_config.md R103). -/
theorem beginTeardown_held {r : Srcp} (h : linesHeld r.lstate = true) : beginTeardown r = beginAt 0#7 r := by
  rw [beginTeardown, if_pos h]

theorem beginTeardown_not_held {r : Srcp} (h : linesHeld r.lstate = false) :
    beginTeardown r = { tornDown r with busy := false, upc := 0#7 } := by
  rw [beginTeardown, h, if_neg Bool.false_ne_true]

/-- Settles O11: NOP is legal everywhere, and its acceptance writes nothing more. -/
theorem nopCompletesAtOnce : Obligations.NopCompletesAtOnce :=
  fun s hb => congrArg Host.Outcome.next (issue_of_legal (s := s) _ _ hb rfl)

/-- Settles O12, by whether the lines are held. -/
theorem configureAccepted : Obligations.ConfigureAccepted := by
  intro s hb
  have accepted (hf : s.srcp.lstate ≠ .failed) :
      exec .configure s = .next { s with srcp := beginConfigure { s.srcp with cur := .configure } } :=
    congrArg Host.Outcome.next (issue_of_legal _ _ hb (by simpa [legal] using hf))
  refine ⟨fun hl => ?_, fun hl => ?_⟩
  · rw [accepted (by rcases hl with hl | hl <;> simp [hl]), beginConfigure_not_held]
    · rfl
    · rcases hl with hl | hl <;> exact congrArg linesHeld hl
  · rw [accepted (by rcases hl with hl | hl <;> simp [hl]), beginConfigure_held]
    · rfl
    · exact (linesHeld_iff _).2 hl

/-- Settles O13: IDLE is legal where the lines are held. -/
theorem idleAccepted : Obligations.IdleAccepted :=
  fun s hb hl => congrArg Host.Outcome.next (issue_of_legal (s := s) _ _ hb ((linesHeld_iff _).2 hl))

/-- Settles O17, by whether the lines are held. -/
theorem teardownAccepted : Obligations.TeardownAccepted := by
  intro s hb
  have accepted : exec .teardown s = .next { s with srcp := beginTeardown { s.srcp with cur := .teardown } } :=
    congrArg Host.Outcome.next (issue_of_legal _ _ hb rfl)
  refine ⟨fun hl => ?_, fun hl => ?_⟩
  · rw [accepted, beginTeardown_held]
    · rfl
    · exact (linesHeld_iff _).2 hl
  · rw [accepted, beginTeardown_not_held]
    · rfl
    · rcases hl with hl | hl | hl <;> exact congrArg linesHeld hl

end Sys2Proof.Machine
end

section
/-! The lines follow the lifecycle (41_pin_config.md R101 to R104, 42_poll.md R111, R119). Each micro-operation drives
one line, gives one line its direction, or leaves the lines as they are, and what it does is what the next place of the
microprogram asks for beyond what was asked before. -/

namespace Sys2Proof.Machine

/-! ### What the lifecycle asks of a line -/

/-- OUT of the line's pin as the lifecycle fixes it; the data line is never driven. -/
def levelNow (r : Srcp) : Line → Option Bool
  | .clk => clkNow r
  | .latch => latchNow r
  | .data => none

theorem linesInv_iff (s : State) :
    LinesInv s ↔
      (∀ l b, levelNow s.srcp l = some b → pinOut s.gpio (linePin s.params l) = b) ∧
      (∀ l, directionSet s.srcp l = true → pinFsel s.params s.gpio (linePin s.params l) = dirCode (lineDir l)) := by
  constructor
  · rintro ⟨hclk, hlatch, hdir⟩
    refine ⟨fun l b hl => ?_, hdir⟩
    cases l with
    | clk => exact hclk b hl
    | latch => exact hlatch b hl
    | data => cases hl
  · rintro ⟨hlevel, hdir⟩
    exact ⟨hlevel .clk, hlevel .latch, hdir⟩

/-! ### What an instruction does to the lines -/

/-- What a micro-operation does to the lines' latches and directions. -/
inductive LineEffect where
  | keeps
  | drives (l : Line) (b : Bool)
  | configures (l : Line)

def lineEffect : Instr → LineEffect
  | .lsetClk => .drives .clk true
  | .lsetLatch => .drives .latch true
  | .lclrClk => .drives .clk false
  | .lclrLatch => .drives .latch false
  | .lcfgClkOut => .configures .clk
  | .lcfgLatchOut => .configures .latch
  | .lcfgDataIn => .configures .data
  | _ => .keeps

/-- The level of line l after the effect, where one is known. -/
def LineEffect.level (e : LineEffect) (l : Line) (o : Option Bool) : Option Bool :=
  match e with
  | .drives m b => if l = m then some b else o
  | _ => o

/-- Whether line l has its direction after the effect. -/
def LineEffect.directed (e : LineEffect) (l : Line) (d : Bool) : Bool :=
  match e with
  | .configures m => decide (l = m) || d
  | _ => d

/-- From g to g' the effect, and nothing else, came on the lines. -/
def LineEffect.Acts (e : LineEffect) (ps : Params) (g g' : Gpio) : Prop :=
  match e with
  | .keeps => g' = g
  | .drives l b => g'.fsel = g.fsel ∧ ∀ q, pinOut g' q = if q = linePin ps l then b else pinOut g q
  | .configures l => g'.out = g.out ∧ ∀ q, q < ps.pins.length →
      pinFsel ps g' q = if q = linePin ps l then dirCode (lineDir l) else pinFsel ps g q

theorem linePin_inj {ps : Params} (h : ParamsWf ps) {l m : Line} (hp : linePin ps l = linePin ps m) : l = m := by
  have h1 := h.clk_ne_latch
  have h2 := h.clk_ne_data
  have h3 := h.latch_ne_data
  cases l <;> cases m <;> simp only [linePin] at hp <;> first | rfl | omega

theorem LineEffect.Acts.pinOut_eq {e : LineEffect} {ps : Params} {g g' : Gpio} (ha : e.Acts ps g g')
    (h : ParamsWf ps) {l : Line} {o : Option Bool} (ho : ∀ b, o = some b → pinOut g (linePin ps l) = b) {b : Bool}
    (hb : e.level l o = some b) : pinOut g' (linePin ps l) = b := by
  cases e with
  | keeps => cases ha; exact ho b hb
  | drives m c =>
    rw [ha.2]
    by_cases hl : l = m
    · simpa [LineEffect.level, hl] using hb
    · rw [if_neg (mt (linePin_inj h) hl)]
      exact ho b (by simpa [LineEffect.level, hl] using hb)
  | configures m =>
    rw [pinOut, ha.1]
    exact ho b hb

theorem LineEffect.Acts.pinFsel_eq {e : LineEffect} {ps : Params} {g g' : Gpio} (ha : e.Acts ps g g')
    (h : ParamsWf ps) {l : Line} {d : Bool} (hd : d = true → pinFsel ps g (linePin ps l) = dirCode (lineDir l))
    (hb : e.directed l d = true) : pinFsel ps g' (linePin ps l) = dirCode (lineDir l) := by
  cases e with
  | keeps => cases ha; exact hd hb
  | drives m c => rw [pinFsel_congr ps ha.1]; exact hd hb
  | configures m =>
    rw [ha.2 _ (linePin_lt h l)]
    by_cases hl : l = m
    · rw [hl, if_pos rfl]
    · rw [if_neg (mt (linePin_inj h) hl)]
      exact hd (by simpa [LineEffect.directed, hl] using hb)

/-- What r' asks of the lines is the effect's doing, or was asked by r already. -/
structure Follows (e : LineEffect) (r r' : Srcp) : Prop where
  level : ∀ l b, levelNow r' l = some b → e.level l (levelNow r l) = some b
  directed : ∀ l, directionSet r' l = true → e.directed l (directionSet r l) = true

/-- The one argument for every kind of step. -/
theorem LinesInv.follows {s t : State} (hs : LinesInv s) (h : ParamsWf s.params) (hp : t.params = s.params)
    {e : LineEffect} (ha : e.Acts s.params s.gpio t.gpio) (hf : Follows e s.srcp t.srcp) : LinesInv t := by
  obtain ⟨hlevel, hdir⟩ := (linesInv_iff s).1 hs
  rw [linesInv_iff, hp]
  exact ⟨fun l b hb => ha.pinOut_eq h (hlevel l) (hf.level l b hb),
    fun l hl => ha.pinFsel_eq h (hdir l) (hf.directed l hl)⟩

/-! ### Registers that ask for nothing new -/

/-- The four registers that fix what is asked of the lines. -/
structure SamePlace (r r' : Srcp) : Prop where
  lstate : r'.lstate = r.lstate
  busy : r'.busy = r.busy
  cur : r'.cur = r.cur
  upc : r'.upc = r.upc

theorem SamePlace.levelNow_eq {r r' : Srcp} (h : SamePlace r r') (l : Line) : levelNow r' l = levelNow r l := by
  cases l <;> simp only [levelNow, clkNow, latchNow, h.lstate, h.busy, h.cur, h.upc]

theorem SamePlace.directionSet_eq {r r' : Srcp} (h : SamePlace r r') (l : Line) :
    directionSet r' l = directionSet r l := by
  simp only [directionSet, h.lstate, h.busy, h.cur, h.upc]

theorem WorkRegsOnly.samePlace {r r' : Srcp} (h : WorkRegsOnly r r') : SamePlace r r' := by
  rw [h]; exact ⟨rfl, rfl, rfl, rfl⟩

theorem TurnedAway.samePlace {s t : State} (h : TurnedAway s t) : SamePlace s.srcp t.srcp := by
  obtain ⟨e, w, u, he, hu, ht⟩ := h
  rw [ht, ← hu]
  cases e <;> cases he <;> exact ⟨rfl, rfl, rfl, rfl⟩

theorem Follows.of_samePlace {r r' : Srcp} (h : SamePlace r r') : Follows .keeps r r' :=
  ⟨fun l _ hb => (h.levelNow_eq l).symm.trans hb, fun l hl => (h.directionSet_eq l).symm.trans hl⟩

theorem Follows.from_samePlace {e : LineEffect} {r r₀ r' : Srcp} (h : SamePlace r r₀) (hf : Follows e r₀ r') :
    Follows e r r' :=
  ⟨fun l b hb => h.levelNow_eq l ▸ hf.level l b hb, fun l hl => h.directionSet_eq l ▸ hf.directed l hl⟩

/-- With BUSY = 0 and no line held no rule fixes the lines. -/
theorem Follows.of_not_held {e : LineEffect} {r r' : Srcp} (hb : r'.busy = false) (hl : linesHeld r'.lstate = false) :
    Follows e r r' := by
  have hready : r'.lstate ≠ .ready := fun h => by rw [h] at hl; cases hl
  refine ⟨fun l b h => ?_, fun l h => ?_⟩
  · cases l <;> simp [levelNow, clkNow, latchNow, hb, hready] at h
  · simp [directionSet, hb, hl] at h

/-! ### Acceptance -/

/-- The levels that READY holds outside POLL, IDLE and TEARDOWN (41_pin_config.md R104). -/
def heldLevel (st : LState) : Line → Option Bool
  | .clk => if st = .ready then some true else none
  | .latch => if st = .ready then some false else none
  | .data => none

/-- The commands that drive a line. -/
def drivesLines (op : Op) : Bool := op == .idle || op == .poll || op == .teardown

theorem levelNow_held {r : Srcp} (h : r.busy = true → drivesLines r.cur = false) (l : Line) :
    levelNow r l = heldLevel r.lstate l := by
  cases hb : r.busy
  · cases l <;> simp [levelNow, clkNow, latchNow, heldLevel, hb]
  · have hc := h hb
    cases l <;> cases hop : r.cur <;> simp [drivesLines, hop] at hc <;>
      simp [levelNow, clkNow, latchNow, heldLevel, hb, hop]

theorem levelNow_at_rest {r : Srcp} (hb : r.busy = false) (l : Line) : levelNow r l = heldLevel r.lstate l :=
  levelNow_held (fun h => absurd (hb.symm.trans h) (by decide)) l

/-- A command that begins asks of the lines what READY holds; POLL begins in READY alone. -/
theorem levelNow_begins {r : Srcp} (hu : r.upc = 0#7) (hp : r.cur = .poll → r.lstate = .ready) (l : Line) :
    levelNow r l = heldLevel r.lstate l := by
  by_cases h : r.busy = true → drivesLines r.cur = false
  · exact levelNow_held h l
  · obtain ⟨hb, hop⟩ := Classical.not_imp.mp h
    cases hc : r.cur <;> simp [drivesLines, hc] at hop
    case poll => cases l <;> simp [levelNow, clkNow, latchNow, heldLevel, hb, hc, hu, hp hc]
    all_goals cases l <;> simp [levelNow, clkNow, latchNow, heldLevel, hb, hc, hu]

/-- Acceptance asks nothing new of the lines where BUSY was 0: at UPC 3 and before no direction is set yet. -/
theorem Follows.of_held {r r' : Srcp} (hb : r.busy = false) (hl : r'.lstate = r.lstate)
    (hlevel : ∀ l, levelNow r' l = heldLevel r'.lstate l) (hu : r'.busy = true → r'.upc.toNat ≤ 3) :
    Follows .keeps r r' := by
  refine ⟨fun l b h => ?_, fun l h => ?_⟩
  · rw [hlevel, hl, ← levelNow_at_rest hb] at h
    exact h
  · simp only [directionSet, hl, Bool.or_eq_true, Bool.and_eq_true, decide_eq_true_eq] at h
    rcases h with h | ⟨⟨hb', -⟩, h⟩
    · simp [LineEffect.directed, directionSet, h]
    · have := hu hb'
      omega

theorem Follows.beginConfigure {r₀ r : Srcp} (hb : r₀.busy = false) (hl : r.lstate = r₀.lstate)
    (hc : r.cur = .configure) : Follows .keeps r₀ (Machine.beginConfigure r) := by
  have held (n : BitVec 7) (hn : n.toNat ≤ 3) : Follows .keeps r₀ (beginAt n r) :=
    .of_held hb hl (levelNow_held fun _ => by rw [beginAt_cur, hc]; rfl) fun _ => hn
  cases h : linesHeld r.lstate
  · rw [beginConfigure_not_held h]; exact held 0#7 (by decide)
  · rw [beginConfigure_held h]; exact held 3#7 (by decide)

/-- Every command but CONFIGURE begins at UPC 0 (60_exceptions.md R151). -/
theorem Follows.beginAt_zero {r₀ r : Srcp} (hb : r₀.busy = false) (hl : r.lstate = r₀.lstate)
    (hp : r.cur = .poll → r.lstate = .ready) : Follows .keeps r₀ (beginAt 0#7 r) :=
  .of_held hb hl (levelNow_begins rfl hp) fun _ => Nat.zero_le 3

theorem Follows.beginTeardown {r₀ r : Srcp} (hb : r₀.busy = false) (hl : r.lstate = r₀.lstate)
    (hc : r.cur = .teardown) : Follows .keeps r₀ (Machine.beginTeardown r) := by
  cases h : linesHeld r.lstate
  · rw [beginTeardown_not_held h]; exact .of_not_held rfl rfl
  · rw [beginTeardown_held h]; exact .beginAt_zero hb hl fun hp => by rw [hc] at hp; cases hp

theorem Follows.accepted {r : Srcp} (hb : r.busy = false) {op : Op} (hl : legal op r.lstate r.rawValid = true)
    (imm : Half) : Follows .keeps r (acceptedBy imm op { r with cur := op }) := by
  cases op with
  | nop =>
    exact .of_held hb rfl (levelNow_at_rest (r := { r with cur := .nop }) hb)
      fun h => absurd (hb.symm.trans h) (by decide)
  | configure => exact .beginConfigure hb rfl rfl
  | poll =>
    have hready : r.lstate = .ready := by simpa [legal] using hl
    exact .beginAt_zero (r := { r with cur := .poll, shift := 0x0000#16 }) hb rfl fun _ => hready
  | idle => exact .beginAt_zero (r := { r with cur := .idle }) hb rfl nofun
  | decode => exact .beginAt_zero (r := { r with cur := .decode, evtSrc := r.raw }) hb rfl nofun
  | decodeImm => exact .beginAt_zero (r := { r with cur := .decodeImm, evtSrc := imm }) hb rfl nofun
  | teardown => exact .beginTeardown hb rfl rfl

theorem CommandRuns.follows {s t : State} (h : CommandRuns s t) : Follows .keeps s.srcp t.srcp := by
  rcases h.srcp_cases with haway | ⟨op, imm, hb, hl, ht⟩
  · exact .of_samePlace haway.samePlace
  · rw [ht]; exact .accepted hb hl imm

/-! ### The outside -/

theorem OutsideActs.follows {s t : State} (h : OutsideActs s t) : Follows .keeps s.srcp t.srcp := by
  rcases h.srcp_cases with ht | haway | ⟨v, rest, -, ht⟩ | ⟨rest, -, ht⟩
  · rw [ht]; exact .of_samePlace ⟨rfl, rfl, rfl, rfl⟩
  · exact .of_samePlace haway.samePlace
  · rw [ht]; exact .of_samePlace ⟨rfl, rfl, rfl, rfl⟩
  · rw [ht]; exact .of_not_held rfl rfl

/-- Without another agent's write the outside leaves the GPIO register file alone (41_pin_config.md R104). -/
theorem OutsideActs.gpio_eq {s t : State} (h : OutsideActs s t) (hu : undisturbed s) : t.gpio = s.gpio := by
  rcases h with ⟨rest, rs, rfl⟩ | ⟨rest, w, -, -, rfl⟩ | ⟨rest, v, -, -, rfl⟩ | ⟨rest, -, rfl⟩ | ⟨rest, -, rfl⟩ |
    ⟨rest, b, -, rfl⟩ | ⟨rest, a, v, hi, rfl⟩
  case inr.inr.inr.inr.inr.inr => exact absurd hi (hu a v rest)
  all_goals rfl

/-! ### SEQ's move, place by place -/

theorem LineEffect.directed_of (e : LineEffect) (l : Line) {d : Bool} (h : d = true) : e.directed l d = true := by
  cases e <;> simp [LineEffect.directed, h]

/-- Inside a microprogram SEQ's move is UPC's alone. -/
theorem advance_at {r : Srcp} {op : Op} {n : Nat} (hc : r.cur = op) (hu : r.upc = BitVec.ofNat 7 n)
    (hn : n + 1 < (microprogram op).length) : advance r = { r with upc := BitVec.ofNat 7 (n + 1) } := by
  have hlen := microprogram_length_le op
  have hun : r.upc.toNat = n := by rw [hu, BitVec.toNat_ofNat]; omega
  rw [advance_inside r (by rwa [hun, hc]), hu, BitVec.ofNat_add]

/-- A move of a command that sets no direction asks for none but those held before it. -/
theorem directionSet_advance {r : Srcp} (hc : r.cur ≠ .configure) (hi : r.cur = .idle → linesHeld r.lstate = true)
    {l : Line} (h : directionSet (advance r) l = true) : linesHeld r.lstate = true := by
  rcases Nat.lt_or_ge (r.upc.toNat + 1) (microprogram r.cur).length with hin | hlast
  · rw [advance_inside r hin] at h
    simpa [directionSet, hc] using h
  · rw [advance_last r hlast] at h
    cases hop : r.cur
    case configure => exact absurd hop hc
    case idle => exact hi hop
    case teardown => simp [directionSet, completion, hop, linesHeld] at h
    all_goals simpa [directionSet, completion, hop, linesHeld] using h

/-- POLL's waveform: the levels at its place n, and at its end, n = 84 (42_poll.md R111, R119). -/
def pollLevel (n : Nat) : Line → Option Bool
  | .clk => some (decide (n < 4 ∨ (n - 4) % 5 ≤ 1 ∨ (n - 4) % 5 = 4))
  | .latch => some (decide (n = 1 ∨ n = 2))
  | .data => none

theorem levelNow_poll {r : Srcp} (hb : r.busy = true) (hc : r.cur = .poll) (l : Line) :
    levelNow r l = pollLevel r.upc.toNat l := by
  cases l <;> simp [levelNow, clkNow, latchNow, pollLevel, hb, hc]

/-- The sixteen cycles of POLL, UPC 4 to 83, are one list again and again (42_poll.md R114 to R116). -/
theorem pollRom_cycle {n : Nat} (h4 : 4 ≤ n) (h : n < 84) : pollRom[n]? = pollCycle[(n - 4) % 5]? := by
  have hcycle : ∀ k : Fin 80, pollRom[k.val + 4]? = pollCycle[k.val % 5]? := by decide
  obtain ⟨k, rfl⟩ := Nat.exists_eq_add_of_le' h4
  exact hcycle ⟨k, by omega⟩

/-- So are the sixteen cycles of the waveform. -/
theorem pollLevel_cycle {n : Nat} (h4 : 4 ≤ n) (l : Line) : pollLevel n l = pollLevel ((n - 4) % 5 + 4) l := by
  have hlatch : ¬ (n = 1 ∨ n = 2) := by omega
  have hclk : ¬ n < 4 := by omega
  cases l <;> simp [pollLevel, hlatch, hclk]

/-- Each micro-operation of POLL draws the next place of the waveform. -/
theorem pollRom_level {n : Nat} {b : Byte} {i : Instr} (hf : pollRom[n]? = some b) (hd : decodeMicroOp b = .ok i)
    (l : Line) : (lineEffect i).level l (pollLevel n l) = pollLevel (n + 1) l := by
  have hn : n < 84 := (List.getElem?_eq_some_iff.mp hf).1
  rcases Nat.lt_or_ge n 4 with h4 | h4
  · interval_cases n <;> cases hf <;> cases hd <;> cases l <;> rfl
  · obtain ⟨j, hj⟩ : ∃ j, (n - 4) % 5 = j := ⟨_, rfl⟩
    have hj5 : j < 5 := hj ▸ Nat.mod_lt _ (by decide)
    have hnext : (n + 1 - 4) % 5 = (j + 1) % 5 := by omega
    rw [pollRom_cycle h4 hn, hj] at hf
    rw [pollLevel_cycle h4, pollLevel_cycle (Nat.le_succ_of_le h4), hj, hnext]
    interval_cases j <;> cases hf <;> cases hd <;> cases l <;> rfl

/-! ### SEQ's move, command by command -/

/-- A command that only holds READY's levels asks for no level but those. -/
theorem heldLevel_advance {r : Srcp} (hop : drivesLines r.cur = false) {l : Line} {b : Bool}
    (h : levelNow (advance r) l = some b) : heldLevel r.lstate l = some b := by
  rcases Nat.lt_or_ge (r.upc.toNat + 1) (microprogram r.cur).length with hin | hlast
  · rw [advance_inside r hin, levelNow_held (r := { r with upc := r.upc + 1#7 }) fun _ => hop] at h
    exact h
  · rw [advance_last r hlast, levelNow_at_rest rfl] at h
    cases hc : r.cur <;> simp [drivesLines, hc] at hop
    case configure =>
      cases hl : r.lstate <;> simp only [completion, hc, hl] at h
      case ready => exact h
      all_goals cases l <;> cases h
    all_goals simpa [completion, hc] using h

theorem Follows.advance_decode {r : Srcp} {b : Byte} {i : Instr} (hc : r.cur = .decode ∨ r.cur = .decodeImm)
    (hf : (microprogram r.cur)[r.upc.toNat]? = some b) (hd : decodeMicroOp b = .ok i) :
    Follows (lineEffect i) r (advance r) := by
  have hop : drivesLines r.cur = false := by rcases hc with hc | hc <;> rw [hc] <;> rfl
  have hne : r.cur ≠ .configure := by rcases hc with hc | hc <;> simp [hc]
  have hidle : r.cur ≠ .idle := by rcases hc with hc | hc <;> simp [hc]
  have hbyte : b = 0xE0#8 := by
    have hm := List.mem_of_getElem? hf
    rcases hc with hc | hc <;> rw [hc] at hm <;> exact (List.mem_replicate.mp hm).2
  subst hbyte
  cases hd
  refine ⟨fun l v h => ?_, fun l h => ?_⟩
  · rw [levelNow_held fun _ => hop]
    exact heldLevel_advance hop h
  · refine LineEffect.directed_of _ l ?_
    simp [directionSet, directionSet_advance hne (fun h => absurd h hidle) h]

/-- CONFIGURE gives line l its direction at UPC lineIndex l + 3, and before UPC 3 leaves the lines alone
(41_pin_config.md R101). -/
theorem configureRom_effect {n : Nat} {b : Byte} {i : Instr} (hf : configureRom[n]? = some b)
    (hd : decodeMicroOp b = .ok i) :
    (n < 3 ∧ lineEffect i = .keeps) ∨ ∃ l, n = lineIndex l + 3 ∧ lineEffect i = .configures l := by
  have hn : n < 6 := (List.getElem?_eq_some_iff.mp hf).1
  interval_cases n <;> cases hf <;> cases hd
  · exact .inl ⟨by decide, rfl⟩
  · exact .inl ⟨by decide, rfl⟩
  · exact .inl ⟨by decide, rfl⟩
  · exact .inr ⟨.clk, rfl, rfl⟩
  · exact .inr ⟨.latch, rfl, rfl⟩
  · exact .inr ⟨.data, rfl, rfl⟩

/-- What directions CONFIGURE's move asks for: those held before it, and those of the LCFGs up to UPC. -/
theorem directionSet_advance_configure {r : Srcp} (hc : r.cur = .configure) (hu : r.upc.toNat < 6) {l : Line}
    (h : directionSet (advance r) l = true) : linesHeld r.lstate = true ∨ lineIndex l + 3 ≤ r.upc.toNat := by
  rcases Nat.lt_or_ge (r.upc.toNat + 1) (microprogram r.cur).length with hin | hlast
  · have hupc := upc_succ_toNat r hin
    rw [advance_inside r hin] at h
    simp only [directionSet, hupc, Bool.or_eq_true, Bool.and_eq_true, decide_eq_true_eq] at h
    exact h.imp_right fun h => Nat.lt_succ_iff.mp h.2
  · have hl2 := lineIndex_le l
    have : 6 ≤ r.upc.toNat + 1 := by rw [hc] at hlast; exact hlast
    omega

theorem Follows.advance_configure {r : Srcp} (hb : r.busy = true) (hc : r.cur = .configure) {b : Byte} {i : Instr}
    (hf : (microprogram r.cur)[r.upc.toNat]? = some b) (hd : decodeMicroOp b = .ok i) :
    Follows (lineEffect i) r (advance r) := by
  have hop : drivesLines r.cur = false := by rw [hc]; rfl
  rw [hc] at hf
  have hu : r.upc.toNat < 6 := (List.getElem?_eq_some_iff.mp hf).1
  have heff := configureRom_effect hf hd
  refine ⟨fun l v h => ?_, fun l h => ?_⟩
  · rw [levelNow_held fun _ => hop, heldLevel_advance hop h]
    rcases heff with ⟨-, he⟩ | ⟨m, -, he⟩ <;> rw [he] <;> rfl
  · have hdir := directionSet_advance_configure hc hu h
    by_cases hset : directionSet r l = true
    · exact LineEffect.directed_of _ l hset
    · simp only [directionSet, hb, hc, beq_self_eq_true, Bool.true_and, Bool.or_eq_true, decide_eq_true_eq,
        not_or] at hset
      have hplace : r.upc.toNat = lineIndex l + 3 := by
        have := hdir.resolve_left hset.1
        omega
      rcases heff with ⟨hlt, -⟩ | ⟨m, hm, he⟩
      · omega
      · have hlm : l = m := lineIndex_inj (by omega)
        simp [he, LineEffect.directed, hlm]

theorem Follows.advance_poll {r : Srcp} (hb : r.busy = true) (hc : r.cur = .poll) (hready : r.lstate = .ready)
    {b : Byte} {i : Instr} (hf : (microprogram r.cur)[r.upc.toNat]? = some b) (hd : decodeMicroOp b = .ok i) :
    Follows (lineEffect i) r (advance r) := by
  refine ⟨fun l v h => ?_, fun l h => LineEffect.directed_of _ l (by simp [directionSet, hready, linesHeld])⟩
  have hrom : pollRom[r.upc.toNat]? = some b := by rw [hc] at hf; exact hf
  have hn : r.upc.toNat < 84 := (List.getElem?_eq_some_iff.mp hrom).1
  rw [levelNow_poll hb hc, pollRom_level hrom hd, ← h]
  rcases Nat.lt_or_ge (r.upc.toNat + 1) (microprogram r.cur).length with hin | hlast
  · rw [advance_inside r hin, levelNow_poll (r := { r with upc := r.upc + 1#7 }) hb hc, upc_succ_toNat r hin]
  · have h84 : r.upc.toNat + 1 = 84 := by rw [hc] at hlast; exact Nat.le_antisymm hn hlast
    rw [advance_poll_last hc h84.ge, levelNow_at_rest rfl, h84]
    simp only [hready]
    cases l <;> rfl

theorem Follows.advance_idle {r : Srcp} (hb : r.busy = true) (hc : r.cur = .idle) (hheld : linesHeld r.lstate = true)
    {b : Byte} {i : Instr} (hf : (microprogram r.cur)[r.upc.toNat]? = some b) (hd : decodeMicroOp b = .ok i) :
    Follows (lineEffect i) r (advance r) := by
  refine ⟨fun l v h => ?_, fun l h => LineEffect.directed_of _ l (by simp [directionSet, hheld])⟩
  rw [hc] at hf
  obtain ⟨n, hn⟩ : ∃ n, r.upc.toNat = n := ⟨_, rfl⟩
  have h2 : n < 2 := hn ▸ (List.getElem?_eq_some_iff.mp hf).1
  rw [hn] at hf
  interval_cases n <;> cases hf <;> cases hd
  · rw [advance_inside r (by rw [hn, hc]; decide)] at h
    have hupc := upc_succ_toNat r (by rw [hn, hc]; decide)
    cases l
    case data => cases h
    all_goals simpa [levelNow, clkNow, latchNow, hb, hc, hn, hupc, lineEffect, LineEffect.level] using h
  · rw [advance_last r (by rw [hn, hc]; decide)] at h
    cases l
    case data => cases h
    all_goals simpa [levelNow, clkNow, latchNow, completion, hb, hc, hn, lineEffect, LineEffect.level] using h

theorem Follows.advance_teardown {r : Srcp} (hb : r.busy = true) (hc : r.cur = .teardown)
    {b : Byte} {i : Instr} (hf : (microprogram r.cur)[r.upc.toNat]? = some b) (hd : decodeMicroOp b = .ok i) :
    Follows (lineEffect i) r (advance r) := by
  refine ⟨fun l v h => ?_, fun l h => LineEffect.directed_of _ l ?_⟩
  · rw [hc] at hf
    obtain ⟨n, hn⟩ : ∃ n, r.upc.toNat = n := ⟨_, rfl⟩
    have h5 : n < 5 := hn ▸ (List.getElem?_eq_some_iff.mp hf).1
    rcases Nat.lt_or_ge (r.upc.toNat + 1) (microprogram r.cur).length with hin | hlast
    · have hupc := upc_succ_toNat r hin
      rw [advance_inside r hin] at h
      rw [hn] at hf
      cases l
      case data => cases h
      all_goals
        interval_cases n <;> cases hf <;> cases hd <;>
          simpa [levelNow, clkNow, latchNow, hb, hc, hn, hupc, lineEffect, LineEffect.level] using h
    · rw [advance_last r hlast, levelNow_at_rest rfl] at h
      cases l <;> simp [heldLevel, completion, hc] at h
  · simp [directionSet, directionSet_advance (by simp [hc]) (by simp [hc]) h]

/-- Past every micro-operation of a microprogram the next place asks for what it did to the lines. -/
theorem follows_advance {r : Srcp} (hb : r.busy = true) (hrun : runsLegally r) {b : Byte} {i : Instr}
    (hf : (microprogram r.cur)[r.upc.toNat]? = some b) (hd : decodeMicroOp b = .ok i) :
    Follows (lineEffect i) r (advance r) := by
  unfold runsLegally at hrun
  cases hc : r.cur <;> simp only [hc] at hrun
  case configure => exact .advance_configure hb hc hf hd
  case idle => exact .advance_idle hb hc hrun hf hd
  case poll => exact .advance_poll hb hc hrun hf hd
  case decode => exact .advance_decode (.inl hc) hf hd
  case decodeImm => exact .advance_decode (.inr hc) hf hd
  case teardown => exact .advance_teardown hb hc hf hd

/-! ### SEQ's turn -/

/-- A micro-operation without effect on the lines makes no write on the GPIO bus. -/
theorem exec_gpio_of_keeps {b : Byte} {i : Instr} {s t : State} (hd : decodeMicroOp b = .ok i)
    (he : lineEffect i = .keeps) (h : exec i s = .next t) : t.gpio = s.gpio := by
  have hm := mem_microOpTable hd
  cases i <;> cases he
  case emit => cases h; cases nextReady s.env <;> rfl
  case lacqClk | lacqLatch | lacqData => cases h; exact (acquireLine_frame _ s).2.1
  case lrelClk | lrelLatch | lrelData => cases h; exact releaseLine_gpio _ s
  case waitTLh | waitTLl | waitTCl | waitTCh | smplData => cases h; rfl
  all_goals simp [microOpTable] at hm

theorem exec_of_drives {i : Instr} {l : Line} {b : Bool} (he : lineEffect i = .drives l b) (s : State) :
    exec i s = .next (driveLine b l s) := by
  cases i <;> cases he <;> rfl

theorem exec_of_configures {i : Instr} {l : Line} (he : lineEffect i = .configures l) (s : State) :
    exec i s = .next (configureLine l (lineDir l) s) := by
  cases i <;> cases he <;> rfl

/-- LACQ touches no line, and SEQ moves on or CONFIGURE ends. -/
theorem Follows.acquireLine {l : Line} {s : State}
    (hnext : ∀ r, WorkRegsOnly s.srcp r → Follows .keeps s.srcp (Machine.advance r)) :
    Follows .keeps s.srcp (Machine.acquireLine l s).srcp := by
  rcases acquireLine_cases l s with ⟨-, ha⟩ | ⟨-, -, ha⟩ | ⟨-, -, ha⟩ <;> rw [ha]
  · exact hnext _ (.refl _)
  · exact hnext _ (.setOwned l true _)
  · rcases denyLine_cases { s with env := tookGrant s.env } with ⟨-, hn⟩ | ⟨-, hn⟩ <;> rw [hn]
    · exact .of_not_held rfl rfl
    · exact hnext _ (.refl _)

/-- LREL touches no line, and outside CONFIGURE SEQ moves on. -/
theorem Follows.releaseLine {l : Line} {s : State}
    (hnext : s.srcp.cur ≠ .configure → ∀ r, WorkRegsOnly s.srcp r → Follows .keeps s.srcp (Machine.advance r)) :
    Follows .keeps s.srcp (Machine.releaseLine l s).srcp := by
  rcases releaseLine_cases l s with ⟨hc, ha⟩ | ⟨-, -, ha⟩ | ⟨-, -, ha⟩ <;> rw [ha]
  · exact hnext hc _ (.setOwned l false _)
  · rcases releaseError_cases s.srcp with ⟨-, -, he⟩ | ⟨-, he⟩ <;> rw [he] <;> exact .of_not_held rfl rfl
  · exact .of_samePlace (WorkRegsOnly.setOwned l false _).samePlace

theorem driveLine_acts (b : Bool) (l : Line) {s : State} (h : ParamsWf s.params) :
    (LineEffect.drives l b).Acts s.params s.gpio (driveLine b l s).gpio := by
  obtain ⟨g, c, ht, hfsel, hout, -⟩ := driveLine_spec b l s h
  rw [ht]
  exact ⟨hfsel, hout⟩

theorem configureLine_acts (l : Line) {s : State} (h : ParamsWf s.params) :
    (LineEffect.configures l).Acts s.params s.gpio (configureLine l (lineDir l) s).gpio := by
  rw [configureLine_gpio l (lineDir l) s h]
  exact ⟨rfl, fun q hq => pinFsel_after_field h _ (linePin_lt h l) _ hq⟩

theorem driveLine_srcp (b : Bool) (l : Line) (s : State) : (driveLine b l s).srcp = advance s.srcp := by
  cases b <;> rfl

theorem WorkRegsOnly.runsLegally {r r' : Srcp} (h : WorkRegsOnly r r') (hr : runsLegally r) : runsLegally r' := by
  rw [h]; exact hr

/-- The micro-operation at UPC does to the lines what the next place asks of them. -/
theorem exec_follows {s t : State} {b : Byte} {i : Instr} (h : ParamsWf s.params) (hb : s.srcp.busy = true)
    (hrun : runsLegally s.srcp) (hf : (microprogram s.srcp.cur)[s.srcp.upc.toNat]? = some b)
    (hd : decodeMicroOp b = .ok i) (hx : exec i s = .next t) :
    (lineEffect i).Acts s.params s.gpio t.gpio ∧ Follows (lineEffect i) s.srcp t.srcp := by
  have hnext (r : Srcp) (hr : WorkRegsOnly s.srcp r) : Follows (lineEffect i) s.srcp (advance r) := by
    have hplace := hr.samePlace
    refine .from_samePlace hplace (follows_advance (hplace.busy.trans hb) (hr.runsLegally hrun) ?_ hd)
    rw [hplace.cur, hplace.upc]
    exact hf
  cases he : lineEffect i with
  | keeps =>
    rw [he] at hnext
    refine ⟨exec_gpio_of_keeps hd he hx, ?_⟩
    rcases exec_microOp_srcp hd hx with ⟨d, v, -, ht | ht⟩ | ⟨-, l, rfl⟩ | ⟨-, l, rfl⟩
    · rw [ht]; exact .of_samePlace ⟨rfl, rfl, rfl, rfl⟩
    · rw [ht]; exact hnext _ (.dcnt_shift d v _)
    · exact .acquireLine hnext
    · exact .releaseLine fun _ => hnext
  | drives l v =>
    rw [exec_of_drives he] at hx
    cases hx
    exact ⟨driveLine_acts v l h, he ▸ (driveLine_srcp v l s).symm ▸ hnext _ (.refl _)⟩
  | configures l =>
    rw [exec_of_configures he] at hx
    cases hx
    exact ⟨configureLine_acts l h, he ▸ hnext _ (.refl _)⟩

theorem LinesInv.seqRuns {s t : State} (hs : LinesInv s) (h : ParamsWf s.params) (hlife : LifecycleInv s.srcp)
    (hseq : SeqRuns s t) : LinesInv t := by
  have hp := hseq.params_eq
  obtain ⟨-, rest, b, i, -, hb, hf, hd, hx⟩ := hseq
  cases hn : nextRelease s with
  | some l =>
    cases exec_release hn hf hd hx
    have hc := (nextRelease_some hn).1
    exact hs.follows h hp (e := .keeps) (releaseLine_gpio l _)
      (.releaseLine (s := askSink { s with inputs := rest }) fun hne => absurd hc hne)
  | none =>
    rw [fetch_microprogram hn] at hf
    obtain ⟨hact, hfol⟩ :=
      exec_follows (s := askSink { s with inputs := rest }) h hb (hlife.runs_legally hb) hf hd hx
    exact hs.follows h hp hact hfol

/-- Settles O54, by the three kinds of step. -/
theorem everyStepKeepsTheLines : Obligations.EveryStepKeepsTheLines := by
  intro s t hwf hlife hs hu hstep
  have h := paramsWf_of_wf hwf
  rcases step_cases hstep with hseq | hcmd | hout
  · exact hs.seqRuns h hlife hseq
  · exact hs.follows h hcmd.params_eq (e := .keeps) hcmd.gpio_eq hcmd.follows
  · exact hs.follows h hout.params_eq (e := .keeps) (hout.gpio_eq hu) hout.follows

end Sys2Proof.Machine
end

section
/-! Whole runs of IDLE, TEARDOWN and CONFIGURE (41_pin_config.md R101 to R103): SEQ's steps one by one, with nothing
pending from the outside. -/

namespace Sys2Proof.Machine

/-! ### One step of a run -/

/-- SEQ is to run place n of op's microprogram, with nothing pending. -/
structure Running (s : State) (op : Op) (n : Nat) : Prop where
  pending : s.inputs = []
  released : s.resetLine = false
  busy : s.srcp.busy = true
  cur : s.srcp.cur = op
  upc : s.srcp.upc = BitVec.ofNat 7 n

theorem Running.place {s : State} {op : Op} {n : Nat} (h : Running s op n) (hn : n < (microprogram op).length) :
    s.srcp.upc.toNat = n := by
  have := microprogram_length_le op
  rw [h.upc, BitVec.toNat_ofNat]
  omega

/-- What SEQ's move writes inside a microprogram is UPC alone. -/
theorem Running.advance_eq {s : State} {op : Op} {n : Nat} (h : Running s op n) (hn : n + 1 < (microprogram op).length)
    {r : Srcp} (hr : WorkRegsOnly s.srcp r) : advance r = { r with upc := BitVec.ofNat 7 (n + 1) } :=
  advance_at (hr.samePlace.cur.trans h.cur) (hr.samePlace.upc.trans h.upc) hn

/-- SEQ moves to the next place, whatever else the micro-operation did. -/
theorem Running.next {s t : State} {op : Op} {n : Nat} (h : Running s op n) (hn : n + 1 < (microprogram op).length)
    (hout : SameOutside s t) {r : Srcp} (hr : WorkRegsOnly s.srcp r) (ht : t.srcp = advance r) :
    Running t op (n + 1) := by
  have hplace := hr.samePlace
  rw [h.advance_eq hn hr] at ht
  exact ⟨hout.inputs.trans h.pending, hout.resetLine.trans h.released, ht ▸ hplace.busy.trans h.busy,
    ht ▸ hplace.cur.trans h.cur, ht ▸ rfl⟩

/-- Where no release step is due and the sink is not asked, a step runs the micro-operation of its place. -/
theorem Running.step_eq {s : State} {op : Op} {n : Nat} (h : Running s op n)
    (hn : op = .configure → linesHeld s.srcp.lstate = true ∨
      n ≠ 3 ∧ ∀ l, lineIndex l < n → owned s.srcp l = true)
    {b : Byte} {i : Instr} (hf : (microprogram op)[n]? = some b) (hd : decodeMicroOp b = .ok i) :
    step s = exec i s := by
  have hplace := h.place (List.getElem?_eq_some_iff.mp hf).1
  refine step_microprogram h.pending h.busy h.released (fun hc => ?_) (by rwa [h.cur, hplace]) hd
  rw [hplace]
  refine (hn (h.cur.symm.trans hc)).imp_right fun ⟨h3, ho⟩ => ⟨fun hu => h3 ?_, ho⟩
  rw [← hplace, hu]
  rfl

theorem runFor_of_step {s t : State} (h : step s = .next t) (k : Nat) : runFor (k + 1) s = runFor k t := by
  simp only [runFor, h]

/-- A step of a command other than CONFIGURE, in a run. -/
theorem Running.runFor_succ {s t : State} {op : Op} {n : Nat} (h : Running s op n) (hop : op ≠ .configure)
    {b : Byte} {i : Instr} (hf : (microprogram op)[n]? = some b) (hd : decodeMicroOp b = .ok i)
    (hx : exec i s = .next t) (k : Nat) : runFor (k + 1) s = runFor k t :=
  runFor_of_step ((h.step_eq (fun hc => absurd hc hop) hf hd).trans hx) k

/-! ### IDLE -/

/-- IDLE and TEARDOWN begin alike: CLK is driven to b and LATCH low. -/
def driveBoth (b : Bool) (s : State) : State := driveLine false .latch (driveLine b .clk s)

theorem driveLine_outside (b : Bool) (l : Line) (s : State) : SameOutside s (driveLine b l s) := by
  cases b <;> exact ⟨rfl, rfl, rfl, rfl⟩

/-- Both latches are as driven; no other latch and no function-select byte changes (log 2). -/
theorem driveBoth_lines (b : Bool) {s : State} (h : ParamsWf s.params) :
    pinOut (driveBoth b s).gpio s.params.pinClk = b ∧ pinOut (driveBoth b s).gpio s.params.pinLatch = false ∧
    (∀ q, q ≠ s.params.pinClk → q ≠ s.params.pinLatch → pinOut (driveBoth b s).gpio q = pinOut s.gpio q) ∧
    (∀ a, readByte (driveBoth b s).gpio.fsel a = readByte s.gpio.fsel a) := by
  obtain ⟨hfsel, hout⟩ := driveLine_acts b .clk h
  have hp := (driveLine_outside b .clk s).params
  obtain ⟨hfsel', hout'⟩ := driveLine_acts false .latch (s := driveLine b .clk s) (hp.symm ▸ h)
  rw [hp] at hout'
  refine ⟨?_, ?_, fun q hc hl => ?_, fun a => ?_⟩
  · rw [driveBoth, hout', hout]
    exact (if_neg h.clk_ne_latch).trans (if_pos rfl)
  · rw [driveBoth, hout']
    exact if_pos rfl
  · rw [driveBoth, hout', hout]
    exact (if_neg hl).trans (if_neg hc)
  · rw [driveBoth, hfsel', hfsel]

/-- After LSET or LCLR CLK the second place is due, with UPC alone moved. -/
theorem Running.driveClk {s : State} {op : Op} (h : Running s op 0) (hlen : 1 < (microprogram op).length) (b : Bool) :
    Running (driveLine b .clk s) op 1 ∧ (driveLine b .clk s).srcp = { s.srcp with upc := 1#7 } :=
  ⟨h.next hlen (driveLine_outside b .clk s) (.refl _) (driveLine_srcp b .clk s),
    (driveLine_srcp b .clk s).trans (h.advance_eq hlen (.refl _))⟩

/-- The first two steps of IDLE and of TEARDOWN. -/
theorem Running.runFor_driveBoth {s : State} {op : Op} (h : Running s op 0) (hop : op ≠ .configure) {b : Bool}
    {c : Byte} {i : Instr} (hclk : (microprogram op)[0]? = some c) (hd : decodeMicroOp c = .ok i)
    (hi : lineEffect i = .drives .clk b) (hlatch : (microprogram op)[1]? = some 0x48#8) (k : Nat) :
    runFor (k + 2) s = runFor k (driveBoth b s) := by
  have h1 := (h.driveClk (List.getElem?_eq_some_iff.mp hlatch).1 b).1
  rw [h.runFor_succ hop hclk hd (exec_of_drives hi s),
    h1.runFor_succ hop hlatch (i := .lclrLatch) rfl (exec_of_drives rfl _)]
  rfl

/-- IDLE's end: READY (41_pin_config.md R102; log 8). -/
theorem advance_idle_last {r : Srcp} (hc : r.cur = .idle) (hu : r.upc = 1#7) :
    advance r = { r with busy := false, upc := 0#7, lstate := .ready } := by
  rw [advance_last r (by rw [hc, hu]; decide)]
  simp [completion, hc]

/-- Settles O43: SEQ drives both lines, then IDLE ends. -/
theorem idleRunReachesTheIdleLevels : Obligations.IdleRunReachesTheIdleLevels := by
  intro s hwf hi hr hb hc hu
  have hrun : Running s .idle 0 := ⟨hi, hr, hb, hc, hu⟩
  refine ⟨driveBoth true s, hrun.runFor_driveBoth (by decide) (i := .lsetClk) rfl rfl rfl rfl 0, ?_,
    driveBoth_lines true (paramsWf_of_wf hwf)⟩
  obtain ⟨h1, hsrcp⟩ := hrun.driveClk (by decide) true
  rw [driveBoth, driveLine_srcp, advance_idle_last h1.cur h1.upc, hsrcp]

/-! ### TEARDOWN -/

/-- A release step of TEARDOWN. -/
def relinquish (l : Line) (s : State) : State := { s with srcp := advance (setOwned l false s.srcp) }

theorem Running.runFor_relinquish {s : State} {l : Line} (h : Running s .teardown (lineIndex l + 2)) (k : Nat) :
    runFor (k + 1) s = runFor k (relinquish l s) := by
  have hx : step s = .next (releaseLine l s) := by
    cases l
    · exact h.step_eq nofun (i := .lrelClk) rfl rfl
    · exact h.step_eq nofun (i := .lrelLatch) rfl rfl
    · exact h.step_eq nofun (i := .lrelData) rfl rfl
  rcases releaseLine_cases l s with ⟨-, ht⟩ | ⟨hc, -⟩ | ⟨hc, -⟩
  · exact runFor_of_step (hx.trans (congrArg _ ht)) k
  · rw [h.cur] at hc; cases hc
  · rw [h.cur] at hc; cases hc

theorem Running.relinquish {s : State} {l : Line} (h : Running s .teardown (lineIndex l + 2)) (hl : lineIndex l < 2) :
    Running (relinquish l s) .teardown (lineIndex l + 3) ∧
      (Machine.relinquish l s).srcp = { setOwned l false s.srcp with upc := BitVec.ofNat 7 (lineIndex l + 3) } :=
  have hlen : lineIndex l + 2 + 1 < (microprogram .teardown).length := Nat.add_lt_add_right hl 3
  ⟨h.next hlen ⟨rfl, rfl, rfl, rfl⟩ (.setOwned l false _) rfl, h.advance_eq hlen (.setOwned l false _)⟩

/-- TEARDOWN's end: TORN_DOWN, with no sample (41_pin_config.md R103; log 8). -/
theorem advance_teardown_last {r : Srcp} (hc : r.cur = .teardown) (hu : r.upc = 4#7) :
    advance r = { r with busy := false, upc := 0#7, lstate := .tornDown, rawValid := false } := by
  rw [advance_last r (by rw [hc, hu]; decide)]
  simp [completion, hc, tornDown]

/-- The three release steps, and TEARDOWN's end. -/
theorem Running.runFor_relinquishAll {s : State} (h : Running s .teardown 2) :
    runFor 3 s = .next { s with
      srcp := { s.srcp with
        busy := false, upc := 0#7, lstate := .tornDown, rawValid := false, ownedClk := false, ownedLatch := false,
        ownedData := false } } := by
  obtain ⟨h3, e3⟩ := h.relinquish (l := .clk) (by decide)
  obtain ⟨h4, e4⟩ := h3.relinquish (l := .latch) (by decide)
  have hlast := advance_teardown_last (r := setOwned .data false _) h4.cur h4.upc
  rw [h.runFor_relinquish (l := .clk), h3.runFor_relinquish (l := .latch), h4.runFor_relinquish (l := .data), runFor,
    Machine.relinquish, hlast, e4, e3]
  rfl

/-- Settles O44: SEQ drives both lines low, then relinquishes the three. -/
theorem teardownRunLeavesTheOutputsLow : Obligations.TeardownRunLeavesTheOutputsLow := by
  intro s hwf hi hr hb hc hu
  have hrun : Running s .teardown 0 := ⟨hi, hr, hb, hc, hu⟩
  obtain ⟨h1, e1⟩ := hrun.driveClk (by decide) false
  have h2 : Running (driveBoth false s) .teardown 2 :=
    h1.next (by decide) (driveLine_outside false .latch _) (.refl _) (driveLine_srcp false .latch _)
  have e2 : (driveBoth false s).srcp = { s.srcp with upc := 2#7 } := by
    rw [driveBoth, driveLine_srcp, h1.advance_eq (by decide) (.refl _), e1]
  refine ⟨_, (hrun.runFor_driveBoth (by decide) (i := .lclrClk) rfl rfl rfl rfl 3).trans h2.runFor_relinquishAll, ?_,
    driveBoth_lines false (paramsWf_of_wf hwf)⟩
  rw [e2]

end Sys2Proof.Machine
end

section
/-! Whole runs of CONFIGURE (41_pin_config.md R101): its three LACQs, the sink's answer and its three LCFGs. -/

namespace Sys2Proof.Machine

/-! ### The three LCFGs -/

/-- CONFIGURE's last three micro-operations. -/
def configureAll (s : State) : State :=
  configureLine .data .input (configureLine .latch .output (configureLine .clk .output s))

theorem configureLine_outside (l : Line) (d : Dir) (s : State) : SameOutside s (configureLine l d s) :=
  ⟨rfl, rfl, rfl, rfl⟩

/-- The three pins get their directions; no latch and no other pin's field changes (41_pin_config.md R101; log 2). -/
theorem directionsOnly_configureAll {s : State} (h : ParamsWf s.params) : directionsOnly s (configureAll s) := by
  obtain ⟨hout₁, hfsel₁⟩ := configureLine_acts .clk h
  obtain ⟨hout₂, hfsel₂⟩ := configureLine_acts .latch (s := configureLine .clk .output s) h
  obtain ⟨hout₃, hfsel₃⟩ :=
    configureLine_acts .data (s := configureLine .latch .output (configureLine .clk .output s)) h
  have hfsel {q : Nat} (hq : q < s.params.pins.length) :
      pinFsel s.params (configureAll s).gpio q =
        if q = s.params.pinData then 0#3 else if q = s.params.pinLatch then 1#3
        else if q = s.params.pinClk then 1#3 else pinFsel s.params s.gpio q :=
    (hfsel₃ q hq).trans <| congrArg _ <| (hfsel₂ q hq).trans <| congrArg _ <| hfsel₁ q hq
  refine ⟨?_, ?_, ?_, hout₃.trans (hout₂.trans hout₁), fun q hq hclk hlatch hdata => ?_⟩
  · rw [hfsel h.clk_lt, if_neg h.clk_ne_data, if_neg h.clk_ne_latch, if_pos rfl]
  · rw [hfsel h.latch_lt, if_neg h.latch_ne_data, if_pos rfl]
  · rw [hfsel h.data_lt, if_pos rfl]
  · rw [hfsel hq, if_neg hdata, if_neg hlatch, if_neg hclk]

/-- What `directionsOnly` compares with is the parameters and the register file of the earlier state. -/
theorem directionsOnly_from {s u t : State} (hp : u.params = s.params) (hg : u.gpio = s.gpio)
    (h : directionsOnly u t) : directionsOnly s t := by
  unfold directionsOnly at h ⊢
  rwa [hp, hg] at h

/-- The lines are held, or all three were granted: no release step is due past UPC 3. -/
def linesReady (r : Srcp) : Prop := linesHeld r.lstate = true ∨ ∀ l, owned r l = true

/-- CONFIGURE's end where its lines are ready (41_pin_config.md R101; log 8). -/
def configured (r : Srcp) : Srcp :=
  { r with busy := false, upc := 0#7, lstate := if r.lstate = .ready then .ready else .configured }

theorem advance_configure_last {r : Srcp} (hc : r.cur = .configure) (hu : r.upc = 5#7) (hf : r.lstate ≠ .failed) :
    advance r = configured r := by
  rw [advance_last r (by rw [hc, hu]; decide)]
  cases hl : r.lstate <;> simp [completion, configured, hc, hl] at hf ⊢

/-- After an LCFG the next place is due, with UPC alone moved. -/
theorem Running.lcfg {s : State} {n : Nat} (h : Running s .configure n) (hn : n + 1 < 6) (l : Line) (d : Dir) :
    Running (configureLine l d s) .configure (n + 1) ∧
      (configureLine l d s).srcp = { s.srcp with upc := BitVec.ofNat 7 (n + 1) } :=
  ⟨h.next hn (configureLine_outside l d s) (.refl _) rfl, h.advance_eq hn (.refl _)⟩

/-- Past UPC 3 no release step is due where the lines are ready. -/
theorem Running.step_ready {s : State} {n : Nat} (h : Running s .configure n) (h3 : n ≠ 3) (hready : linesReady s.srcp)
    {b : Byte} {i : Instr} (hf : configureRom[n]? = some b) (hd : decodeMicroOp b = .ok i) : step s = exec i s :=
  h.step_eq (fun _ => hready.imp_right fun ho => ⟨h3, fun l _ => ho l⟩) hf hd

/-- A run from UPC 3, whose first step is LCFG CLK in u. -/
theorem Running.runFor_configureAll {s u : State} (h : Running u .configure 3) (hready : linesReady u.srcp)
    (hf : u.srcp.lstate ≠ .failed) (hstep : step s = exec .lcfgClkOut u) :
    runFor 3 s = .next (configureAll u) ∧ (configureAll u).srcp = configured u.srcp := by
  obtain ⟨h4, e4⟩ := h.lcfg (by decide) .clk .output
  obtain ⟨h5, e5⟩ := h4.lcfg (by decide) .latch .output
  rw [e4] at e5
  have r4 : linesReady (configureLine .clk .output u).srcp := e4 ▸ hready
  have r5 : linesReady (configureLine .latch .output (configureLine .clk .output u)).srcp := e5 ▸ hready
  refine ⟨?_, ?_⟩
  · rw [runFor_of_step hstep, runFor_of_step (h4.step_ready (i := .lcfgLatchOut) (by decide) r4 rfl rfl),
      runFor_of_step (h5.step_ready (i := .lcfgDataIn) (by decide) r5 rfl rfl)]
    rfl
  · have hlast := advance_configure_last h5.cur h5.upc (e5 ▸ hf)
    exact hlast.trans (e5 ▸ rfl)

/-! ### The three LACQs -/

/-- A granted LACQ. -/
def granted (l : Line) (s : State) : State :=
  { s with srcp := advance (setOwned l true s.srcp), env := tookGrant s.env }

/-- LACQ at its place on the acquiring path, where the lines before it are owned and this one is granted. -/
theorem Running.grant {s : State} {l : Line} (h : Running s .configure (lineIndex l))
    (ho : ∀ m, owned s.srcp m = decide (lineIndex m < lineIndex l)) (hg : nextGrant s.env = true) :
    step s = .next (granted l s) ∧ Running (granted l s) .configure (lineIndex l + 1) ∧
      (granted l s).srcp = { setOwned l true s.srcp with upc := BitVec.ofNat 7 (lineIndex l + 1) } ∧
      ∀ m, owned (granted l s).srcp m = decide (lineIndex m < lineIndex l + 1) := by
  have hl2 := lineIndex_le l
  have hlen : lineIndex l + 1 < (microprogram .configure).length :=
    Nat.lt_of_le_of_lt (Nat.succ_le_succ hl2) (by decide)
  have hx : step s = .next (acquireLine l s) := by
    have hdue : lineIndex l ≠ 3 ∧ ∀ m, lineIndex m < lineIndex l → owned s.srcp m = true :=
      ⟨by omega, fun m hm => by rw [ho, decide_eq_true hm]⟩
    cases l
    · exact h.step_eq (fun _ => .inr hdue) (i := .lacqClk) rfl rfl
    · exact h.step_eq (fun _ => .inr hdue) (i := .lacqLatch) rfl rfl
    · exact h.step_eq (fun _ => .inr hdue) (i := .lacqData) rfl rfl
  refine ⟨?_, h.next hlen ⟨rfl, rfl, rfl, rfl⟩ (.setOwned l true _) rfl, h.advance_eq hlen (.setOwned l true _),
    fun m => ?_⟩
  · rw [hx, acquireLine_granted ((ho l).trans (decide_eq_false (Nat.lt_irrefl _))) hg]
    rfl
  · rw [granted, owned_advance, owned_setOwned, ho]
    by_cases hml : m = l
    · simp [hml]
    · have := lineIndex_ne hml
      rw [if_neg hml]
      exact decide_eq_decide.mpr (by omega)

/-- The acquiring path with three grants: every line is owned at UPC 3. -/
theorem Running.runFor_grants {s : State} (h : Running s .configure 0) (ho : ∀ l, owned s.srcp l = false)
    (hclk : nextGrant s.env = true) (hlatch : nextGrant (tookGrant s.env) = true)
    (hdata : nextGrant (tookGrant (tookGrant s.env)) = true) (k : Nat) :
    ∃ u, runFor (k + 3) s = runFor k u ∧ Running u .configure 3 ∧
      u = { s with
        srcp := { s.srcp with upc := 3#7, ownedClk := true, ownedLatch := true, ownedData := true }
        env := tookGrant (tookGrant (tookGrant s.env)) } := by
  obtain ⟨s1, h1, e1, o1⟩ := h.grant (l := .clk) (fun m => ho m) hclk
  obtain ⟨s2, h2, e2, o2⟩ := h1.grant (l := .latch) o1 hlatch
  obtain ⟨s3, h3, e3, -⟩ := h2.grant (l := .data) o2 hdata
  rw [e2, e1] at e3
  refine ⟨_, ?_, h3, ?_⟩
  · rw [runFor_of_step s1, runFor_of_step s2, runFor_of_step s3]
  · exact congrArg (fun r : Srcp => { granted .data (granted .latch (granted .clk s)) with srcp := r }) e3

/-- At UPC 3 the sink is asked, and where it is available the three LCFGs follow (41_pin_config.md R101). -/
theorem Running.runFor_sinkOk {s : State} (h : Running s .configure 3) (hheld : linesHeld s.srcp.lstate = false)
    (hf : s.srcp.lstate ≠ .failed) (ho : ∀ l, owned s.srcp l = true) (hsink : nextSinkOk s.env = true) :
    runFor 3 s = .next (configureAll { s with env := tookSinkOk s.env }) ∧
      (configureAll { s with env := tookSinkOk s.env }).srcp = configured s.srcp := by
  obtain ⟨hfetch, hask⟩ := fetch_sinkDue ((sinkDue_iff _).2 ⟨h.cur, hheld, h.upc, ho⟩)
  rw [hsink, if_pos rfl] at hfetch
  have hstep : step s = exec .lcfgClkOut { s with env := tookSinkOk s.env } := by
    rw [step_seq (i := .lcfgClkOut) h.pending h.busy h.released hfetch rfl, hask]
  have hu : Running { s with env := tookSinkOk s.env } .configure 3 := ⟨h.pending, h.released, h.busy, h.cur, h.upc⟩
  exact hu.runFor_configureAll (.inr ho) hf hstep

/-- Settles O42: on the acquiring path the LACQs, the sink's answer and the LCFGs; on the repeat path the LCFGs
alone. -/
theorem configureRunConfiguresTheLines : Obligations.ConfigureRunConfiguresTheLines := by
  intro s hwf hi hr hb hc
  have h := paramsWf_of_wf hwf
  refine ⟨fun hu hl ho hclk hlatch hdata hsink => ?_, fun hu hl => ?_⟩
  · have hrun : Running s .configure 0 := ⟨hi, hr, hb, hc, hu⟩
    obtain ⟨u, hgrants, h3, hu⟩ := hrun.runFor_grants ho hclk hlatch hdata 3
    have hsrcp : u.srcp = { s.srcp with upc := 3#7, ownedClk := true, ownedLatch := true, ownedData := true } := by
      rw [hu]
    have hst : u.srcp.lstate = s.srcp.lstate := by rw [hsrcp]
    obtain ⟨hx, ht⟩ := h3.runFor_sinkOk (by rw [hst]; rcases hl with hl | hl <;> rw [hl] <;> rfl)
      (by rw [hst]; rcases hl with hl | hl <;> simp [hl]) (fun l => by rw [hsrcp]; cases l <;> rfl)
      (by rw [hu]; exact hsink)
    refine ⟨_, hgrants.trans hx, ?_, ?_⟩
    · rw [ht, configured, hsrcp]
      rcases hl with hl | hl <;> simp [hl]
    · have hp : u.params = s.params := by rw [hu]
      have hdir := directionsOnly_configureAll (s := { u with env := tookSinkOk u.env }) (hp ▸ h)
      exact directionsOnly_from hp (by rw [hu]) hdir
  · have hrun : Running s .configure 3 := ⟨hi, hr, hb, hc, hu⟩
    have hheld : linesHeld s.srcp.lstate = true := (linesHeld_iff _).2 hl
    obtain ⟨hx, hsrcp⟩ := hrun.runFor_configureAll (.inl hheld) (by rcases hl with hl | hl <;> simp [hl])
      (hrun.step_eq (fun _ => .inl hheld) (i := .lcfgClkOut) rfl rfl)
    refine ⟨_, hx, ?_, rfl, directionsOnly_configureAll h⟩
    rw [hsrcp, configured]
    rcases hl with hl | hl <;> simp [hl]

end Sys2Proof.Machine
end

section
/-! A CONFIGURE that fails (41_pin_config.md R101, 60_exceptions.md R155): a denied line or an absent sink, then one
release step for each owned line (log 9). -/

namespace Sys2Proof.Machine

/-! ### The end of a failed CONFIGURE -/

theorem failConfigure_resource (s : State) :
    failConfigure .resource s = { s with srcp := { s.srcp with
      lstate := .failed, busy := false, upc := 0#7, errResource := true, errcmd := 0x00000001#32 } } := by
  rw [failConfigure, encodeWord_configure, raiseErr_resource]

theorem failConfigure_alloc (s : State) :
    failConfigure .alloc s = { s with srcp := { s.srcp with
      lstate := .failed, busy := false, upc := 0#7, errAlloc := true, errcmd := 0x00000001#32 } } := by
  rw [failConfigure, encodeWord_configure, raiseErr_alloc]

/-! ### The lines that are owned, in order -/

/-- They are listed in the order CLK, LATCH, DATA. -/
theorem ownedLines_pairwise (r : Srcp) : (ownedLines r).Pairwise fun l m => lineIndex l < lineIndex m :=
  List.Pairwise.filter _ (by simp [lineIndex])

/-- Relinquishing the first leaves the others. -/
theorem ownedLines_release {r : Srcp} {l : Line} {ls : List Line} (h : ownedLines r = l :: ls) :
    ownedLines (setOwned l false r) = ls := by
  have hothers : ∀ m ∈ ls, m ≠ l := by
    have hp := ownedLines_pairwise r
    rw [h] at hp
    rintro m hm rfl
    exact Nat.lt_irrefl _ (List.rel_of_pairwise_cons hp hm)
  have hfilter : ownedLines (setOwned l false r) = (ownedLines r).filter (fun m => decide (m ≠ l)) := by
    simp only [ownedLines, List.filter_filter]
    refine List.filter_congr fun m _ => ?_
    rw [owned_setOwned]
    by_cases hm : m = l <;> simp [hm]
  rw [hfilter, h]
  simpa using hothers

/-- DATA is the last to be relinquished. -/
theorem ownedLines_head_ne_data {r : Srcp} {l m : Line} {ls : List Line} (h : ownedLines r = l :: m :: ls) :
    l ≠ .data := by
  have hp := ownedLines_pairwise r
  rw [h] at hp
  have hlt : lineIndex l < lineIndex m := List.rel_of_pairwise_cons hp (List.mem_cons_self ..)
  have := lineIndex_le m
  rintro rfl
  have h2 : lineIndex .data = 2 := rfl
  omega

/-- No line is owned. -/
def disowned (r : Srcp) : Srcp := { r with ownedClk := false, ownedLatch := false, ownedData := false }

theorem disowned_setOwned (l : Line) (r : Srcp) : disowned (setOwned l false r) = disowned r := by
  cases l <;> rfl

theorem disowned_of_none {r : Srcp} (h : ∀ l, owned r l = false) : disowned r = r := by
  have hclk : r.ownedClk = false := h .clk
  have hlatch : r.ownedLatch = false := h .latch
  have hdata : r.ownedData = false := h .data
  cases r
  cases hclk
  cases hlatch
  cases hdata
  rfl

/-- The error CONFIGURE ends with does not change along its release steps but the last. -/
theorem releaseError_setOwned {l : Line} (h : l ≠ .data) (r : Srcp) :
    releaseError (setOwned l false r) = releaseError r := by
  cases l
  case data => exact absurd rfl h
  all_goals rfl

/-! ### The release steps -/

/-- A release step is LREL of the line that is due. -/
theorem step_release {s : State} {l : Line} (hi : s.inputs = []) (hr : s.resetLine = false) (hb : s.srcp.busy = true)
    (hn : nextRelease s = some l) : step s = .next (releaseLine l (askSink s)) := by
  rw [step_seq hi hb hr (fetch_release hn) (lrelByte_decodes l)]
  cases l <;> rfl

/-- A line stays missing through the release steps. -/
theorem lineMissing_setOwned {r : Srcp} (h : lineMissing r = true) (l : Line) :
    lineMissing (setOwned l false r) = true := by
  obtain ⟨kcur, kupc, -, kl, -, -⟩ := setOwned_keeps l false r
  obtain ⟨hc, hl, m, hm, ho⟩ := (lineMissing_iff r).mp h
  rw [lineMissing_iff, kcur, kupc, kl]
  exact ⟨hc, hl, m, hm, by rw [owned_setOwned, ho, ite_self]⟩

/-- Where a line is missing, the first owned line is relinquished: the next release step follows, or CONFIGURE ends. -/
theorem step_lineMissing {s : State} {l : Line} {ls : List Line} (hi : s.inputs = []) (hr : s.resetLine = false)
    (hb : s.srcp.busy = true) (hm : lineMissing s.srcp = true) (ho : ownedLines s.srcp = l :: ls) :
    step s = .next (releaseNext (releaseError s.srcp) { s with srcp := setOwned l false s.srcp }) := by
  obtain ⟨hn, ha⟩ := nextRelease_lineMissing hm
  rw [ho] at hn
  rw [step_release hi hr hb hn, ha, releaseLine, if_pos (nextRelease_some hn).1]

/-- As many release steps as lines are owned end CONFIGURE, with the error that was due (41_pin_config.md R101). -/
theorem runFor_releases {s : State} {l : Line} {ls : List Line} (hi : s.inputs = []) (hr : s.resetLine = false)
    (hb : s.srcp.busy = true) (hm : lineMissing s.srcp = true) (ho : ownedLines s.srcp = l :: ls) :
    runFor (ls.length + 1) s =
      .next (failConfigure (releaseError s.srcp) { s with srcp := disowned s.srcp }) := by
  induction ls generalizing s l with
  | nil =>
    have hnil := ownedLines_release ho
    have hnone := (ownedLines_eq_nil _).mp hnil
    rw [runFor_of_step (step_lineMissing hi hr hb hm ho), releaseNext, if_pos hnil, ← disowned_setOwned l,
      disowned_of_none hnone]
    rfl
  | cons m ms ih =>
    have hrest := ownedLines_release ho
    obtain ⟨-, -, kbusy, -, -, -⟩ := setOwned_keeps l false s.srcp
    have hnext := ih (s := { s with srcp := setOwned l false s.srcp }) hi hr (kbusy.trans hb)
      (lineMissing_setOwned hm l) hrest
    rw [releaseError_setOwned (ownedLines_head_ne_data ho), disowned_setOwned] at hnext
    rw [runFor_of_step (step_lineMissing hi hr hb hm ho), releaseNext, if_neg (by simp [hrest])]
    exact hnext

/-- A denied LACQ, with no line owned or with release steps to follow (40_line_ops.md R90; log 9). -/
theorem acquireLine_denied {l : Line} {s : State} (h : owned s.srcp l = false) (hg : nextGrant s.env = false) :
    acquireLine l s = denyLine { s with env := tookGrant s.env } := by
  rcases acquireLine_cases l s with ⟨hown, -⟩ | ⟨-, hgrant, -⟩ | ⟨-, -, ht⟩
  · exact absurd h (by simp [hown])
  · exact absurd hg (by simp [hgrant])
  · exact ht

/-- Settles O28: the denied LACQ itself, then one release step for each owned line. -/
theorem lacqOfADeniedLineFailsConfigure : Obligations.LacqOfADeniedLineFailsConfigure := by
  refine ⟨fun s i l hi ho hg => ?_, fun s hi hr hb hc hheld hmiss hdata hsome => ?_⟩
  · have hx : exec i s = .next (denyLine { s with env := tookGrant s.env }) := by
      rw [← acquireLine_denied ho hg]
      rcases hi with ⟨rfl, rfl⟩ | ⟨rfl, rfl⟩ | ⟨rfl, rfl⟩ <;> rfl
    refine ⟨fun hnone => ?_, fun hsome => ?_⟩
    · rw [hx, denyLine, if_pos ((ownedLines_eq_nil _).mpr hnone), failConfigure_resource]
    · rw [hx, denyLine, if_neg ((ownedLines_ne_nil _).mpr hsome)]
      rfl
  · obtain ⟨l, ls, ho⟩ := List.exists_cons_of_ne_nil ((ownedLines_ne_nil _).mpr hsome)
    have herr : releaseError s.srcp = .resource := by
      rcases releaseError_cases s.srcp with ⟨hu, hd, -⟩ | ⟨-, he⟩
      · exact absurd (hdata hu) (by simp [hd])
      · exact he
    have hrun := runFor_releases hi hr hb ((lineMissing_iff _).mpr ⟨hc, hheld, hmiss⟩) ho
    rw [herr, failConfigure_resource] at hrun
    rw [ho]
    exact hrun

/-- Settles O29: LREL CLK in the step that asks the sink, then the release steps of the other two. -/
theorem absentSinkFailsConfigure : Obligations.AbsentSinkFailsConfigure := by
  intro s hi hr hb hc hheld hu ho hsink
  have hdue : sinkDue s.srcp = true := (sinkDue_iff _).mpr ⟨hc, hheld, hu, ho⟩
  obtain ⟨hn, ha⟩ := nextRelease_sinkDue hdue
  rw [hsink, if_neg Bool.false_ne_true] at hn
  have hlatch : s.srcp.ownedLatch = true := ho .latch
  have hdata : s.srcp.ownedData = true := ho .data
  have hrest : ownedLines { s.srcp with ownedClk := false } = [.latch, .data] := by
    simp [ownedLines, owned, hlatch, hdata]
  have hstep : step s = .next { s with env := tookSinkOk s.env, srcp := { s.srcp with ownedClk := false } } := by
    rw [step_release hi hr hb hn, ha, releaseLine, if_pos hc, releaseNext, if_neg (by rw [setOwned, hrest]; simp)]
    rfl
  refine ⟨hstep, ?_⟩
  have hmiss : lineMissing { s.srcp with ownedClk := false } = true :=
    (lineMissing_iff _).mpr ⟨hc, hheld, .clk, by rw [hu]; decide, rfl⟩
  have herr : releaseError { s.srcp with ownedClk := false } = .alloc := if_pos ⟨hu, hdata⟩
  have hrun := runFor_releases (s := { s with env := tookSinkOk s.env, srcp := { s.srcp with ownedClk := false } })
    hi hr hb hmiss hrest
  rw [herr, failConfigure_alloc] at hrun
  rw [runFor_of_step hstep]
  exact hrun

end Sys2Proof.Machine
end

section
/-! A word written to CMD while a command runs (60_exceptions.md R151, 42_poll.md R125). -/

namespace Sys2Proof.Machine

/-- BUSY is checked first: no command's own acceptance is reached (60_exceptions.md R154). -/
theorem exec_command_busy {w : Word} {i : Instr} {s : State} (hd : decodeCommand w = .ok i) (hb : s.srcp.busy = true) :
    exec i s = .next (raiseErr .busy w s) := by
  obtain ⟨op, imm, hx⟩ := exec_command ((decodeCommand_iff_encode w i).1 hd)
  rw [hx, issue, if_pos hb]

/-- While BUSY = 1 a word is turned away whether the decoder takes it or not. -/
theorem takeTurn_issueTurn_busy (w : Word) {s : State} (hb : s.srcp.busy = true) :
    takeTurn (issueTurn w s) = .next (raiseErr .busy w s) := by
  by_cases hw : ∃ i, decodeCommand w = .ok i
  · obtain ⟨i, hd⟩ := hw
    rw [issueTurn, hd]
    exact exec_command_busy hd hb
  · rw [issueTurn_of_not_ok hw, takeTurn, rejectWord, if_pos hb]

/-- Settles O18: HOST's write to CMD comes to ERR_BUSY alone. -/
theorem busyRejectsEveryWord : Obligations.BusyRejectsEveryWord := by
  intro s w rest hr hb hi
  rw [step, nextTurn_hostWord (by decide) (by decide) hi, hr, if_neg Bool.false_ne_true, writeTurn,
    takeTurn_issueTurn_busy w, raiseErr_busy]
  exact hb

end Sys2Proof.Machine
end

section
/-! POLL's acceptance (42_poll.md R110) and its 84 micro-operations (42_poll.md R111 to R119): the latch pulse, then
sixteen sample cycles, SEQ's steps one by one with nothing pending from the outside. -/

namespace Sys2Proof.Machine

/-- Settles O14: POLL is legal in READY alone. -/
theorem pollAccepted : Obligations.PollAccepted :=
  fun s hb hl => congrArg Host.Outcome.next (issue_of_legal (s := s) _ _ hb (by rw [hl]; rfl))

/-- Settles O4: the head and sixteen cycles, written out. -/
theorem pollMicroprogramIsTheRomImage : Obligations.PollMicroprogramIsTheRomImage :=
  ⟨rfl, rfl, fun _ _ => rfl⟩

/-! ### The parts of a POLL -/

/-- UPC 0 to 3: the latch pulse and the settle (42_poll.md R112, R113). -/
def latchPulse (s : State) : State :=
  waitFor .tLL (driveLine false .latch (waitFor .tLH (driveLine true .latch s)))

/-- The first four micro-operations of a cycle: the sample, and the clock low and high again (42_poll.md R114,
R115). -/
def sampleAndClock (s : State) : State :=
  driveLine true .clk (waitFor .tCL (driveLine false .clk (sampleData s)))

/-- One sample cycle (42_poll.md R114 to R116). -/
def sampleCycle (s : State) : State := waitFor .tCH (sampleAndClock s)

/-- Where a POLL that began in s takes its i-th sample; with i = 16, where it has ended. -/
def atSample (s : State) (i : Nat) : State := times sampleCycle i (latchPulse s)

theorem times_succ {α : Type} (f : α → α) (n : Nat) (a : α) : times f (n + 1) a = f (times f n a) := by
  induction n generalizing a with
  | zero => rfl
  | succ n ih => exact ih (f a)

theorem atSample_succ (s : State) (i : Nat) : atSample s (i + 1) = sampleCycle (atSample s i) :=
  times_succ sampleCycle i (latchPulse s)

/-! ### One micro-operation: what it leaves alone, and that the next place is due -/

@[simp] theorem waitFor_srcp (c : DelayClass) (s : State) :
    (waitFor c s).srcp = advance { s.srcp with dcnt := 0 } := rfl
@[simp] theorem waitFor_params (c : DelayClass) (s : State) : (waitFor c s).params = s.params := rfl
@[simp] theorem waitFor_gpio (c : DelayClass) (s : State) : (waitFor c s).gpio = s.gpio := rfl
@[simp] theorem waitFor_ctrl (c : DelayClass) (s : State) : (waitFor c s).ctrl = s.ctrl := rfl
@[simp] theorem waitFor_env (c : DelayClass) (s : State) : (waitFor c s).env = tookWait s.env := rfl

@[simp] theorem sampleData_params (s : State) : (sampleData s).params = s.params := rfl
@[simp] theorem sampleData_gpio (s : State) : (sampleData s).gpio = s.gpio := rfl
@[simp] theorem sampleData_ctrl (s : State) : (sampleData s).ctrl = s.ctrl := rfl
@[simp] theorem sampleData_env (s : State) : (sampleData s).env = tookLevel s.env := rfl

theorem Running.wait {s : State} {op : Op} {n : Nat} (h : Running s op n) (hn : n + 1 < (microprogram op).length)
    (c : DelayClass) :
    Running (waitFor c s) op (n + 1) ∧
      (waitFor c s).srcp = { s.srcp with dcnt := 0, upc := BitVec.ofNat 7 (n + 1) } :=
  have hr := WorkRegsOnly.dcnt_shift 0 s.srcp.shift s.srcp
  ⟨h.next hn ⟨rfl, rfl, rfl, rfl⟩ hr rfl, h.advance_eq hn hr⟩

theorem Running.drive {s : State} {op : Op} {n : Nat} (h : Running s op n) (hn : n + 1 < (microprogram op).length)
    (b : Bool) (l : Line) :
    Running (driveLine b l s) op (n + 1) ∧
      (driveLine b l s).srcp = { s.srcp with upc := BitVec.ofNat 7 (n + 1) } :=
  ⟨h.next hn (driveLine_outside b l s) (.refl _) (driveLine_srcp b l s),
    (driveLine_srcp b l s).trans (h.advance_eq hn (.refl _))⟩

theorem Running.sample {s : State} {op : Op} {n : Nat} (h : Running s op n) (hn : n + 1 < (microprogram op).length) :
    Running (sampleData s) op (n + 1) ∧
      (sampleData s).srcp = { s.srcp with
        shift := setBit s.srcp.shift (idx s.srcp.upc) (!sampledLevel s), upc := BitVec.ofNat 7 (n + 1) } :=
  have hr := WorkRegsOnly.dcnt_shift s.srcp.dcnt (setBit s.srcp.shift (idx s.srcp.upc) (!sampledLevel s)) s.srcp
  ⟨h.next hn ⟨rfl, rfl, rfl, rfl⟩ hr rfl, h.advance_eq hn hr⟩

/-! ### The latch pulse and one cycle -/

theorem Running.runFor_latchPulse {s : State} (h : Running s .poll 0) :
    (∀ k, runFor (k + 4) s = runFor k (latchPulse s)) ∧ Running (latchPulse s) .poll 4 ∧
      (latchPulse s).srcp = { s.srcp with dcnt := 0, upc := 4#7 } := by
  obtain ⟨h1, e1⟩ := h.drive (by decide) true .latch
  obtain ⟨h2, e2⟩ := h1.wait (by decide) .tLH
  obtain ⟨h3, e3⟩ := h2.drive (by decide) false .latch
  obtain ⟨h4, e4⟩ := h3.wait (by decide) .tLL
  rw [e3, e2, e1] at e4
  refine ⟨fun k => ?_, h4, e4⟩
  rw [h.runFor_succ nofun (i := .lsetLatch) rfl rfl (exec_of_drives rfl s),
    h1.runFor_succ nofun (i := .waitTLh) rfl rfl rfl,
    h2.runFor_succ nofun (i := .lclrLatch) rfl rfl (exec_of_drives rfl _),
    h3.runFor_succ nofun (i := .waitTLl) rfl rfl rfl]
  rfl

/-- Place j of the i-th cycle. -/
theorem pollRom_at_cycle {i j : Nat} (hi : i < 16) (hj : j < 5) :
    (microprogram .poll)[5 * i + 4 + j]? = pollCycle[j]? := by
  have hplace : (5 * i + 4 + j - 4) % 5 = j := by omega
  rw [microprogram, pollRom_cycle (by omega) (by omega), hplace]

/-- At the i-th cycle's SMPL the cycle index is i (10_state.md R36). -/
theorem Running.idx_eq {s : State} {i : Nat} (h : Running s .poll (5 * i + 4)) (hi : i < 16) : idx s.srcp.upc = i := by
  have hlen : (microprogram .poll).length = 84 := rfl
  rw [idx, h.place (by omega)]
  omega

theorem Running.runFor_sampleAndClock {s : State} {i : Nat} (h : Running s .poll (5 * i + 4)) (hi : i < 16) :
    (∀ k, runFor (k + 4) s = runFor k (sampleAndClock s)) ∧ Running (sampleAndClock s) .poll (5 * i + 8) ∧
      (sampleAndClock s).srcp = { s.srcp with
        dcnt := 0, shift := setBit s.srcp.shift i (!sampledLevel s), upc := BitVec.ofNat 7 (5 * i + 8) } := by
  have hlen : (microprogram .poll).length = 84 := rfl
  obtain ⟨h1, e1⟩ := h.sample (by omega)
  obtain ⟨h2, e2⟩ := h1.drive (by omega) false .clk
  obtain ⟨h3, e3⟩ := h2.wait (by omega) .tCL
  obtain ⟨h4, e4⟩ := h3.drive (by omega) true .clk
  rw [e3, e2, e1, h.idx_eq hi] at e4
  refine ⟨fun k => ?_, h4, e4⟩
  rw [h.runFor_succ nofun (pollRom_at_cycle (j := 0) hi (by decide)) (i := .smplData) rfl rfl,
    h1.runFor_succ nofun (pollRom_at_cycle (j := 1) hi (by decide)) (i := .lclrClk) rfl (exec_of_drives rfl _),
    h2.runFor_succ nofun (pollRom_at_cycle (j := 2) hi (by decide)) (i := .waitTCl) rfl rfl,
    h3.runFor_succ nofun (pollRom_at_cycle (j := 3) hi (by decide)) (i := .lsetClk) rfl (exec_of_drives rfl _)]
  rfl

theorem Running.runFor_sampleCycle {s : State} {i : Nat} (h : Running s .poll (5 * i + 4)) (hi : i < 16) (k : Nat) :
    runFor (k + 5) s = runFor k (sampleCycle s) := by
  obtain ⟨hrun, h4, -⟩ := h.runFor_sampleAndClock hi
  rw [hrun (k + 1), h4.runFor_succ nofun (pollRom_at_cycle (j := 4) hi (by decide)) (i := .waitTCh) rfl rfl]
  rfl

/-- After a cycle that is not the last, the next one is due. -/
theorem Running.next_cycle {s : State} {i : Nat} (h : Running s .poll (5 * i + 4)) (hi : i + 1 < 16) :
    Running (sampleCycle s) .poll (5 * (i + 1) + 4) ∧
      (sampleCycle s).srcp = { s.srcp with
        dcnt := 0, shift := setBit s.srcp.shift i (!sampledLevel s), upc := BitVec.ofNat 7 (5 * (i + 1) + 4) } := by
  have hlen : (microprogram .poll).length = 84 := rfl
  obtain ⟨-, h4, e4⟩ := h.runFor_sampleAndClock (by omega)
  obtain ⟨h5, e5⟩ := h4.wait (by omega) .tCH
  rw [e4] at e5
  exact ⟨h5, e5⟩

/-- After the last cycle POLL ends (42_poll.md R117; log 8). -/
theorem Running.last_cycle {s : State} (h : Running s .poll (5 * 15 + 4)) :
    (sampleCycle s).srcp = { s.srcp with
      busy := false, upc := 0#7, dcnt := 0, rawValid := true
      shift := setBit s.srcp.shift 15 (!sampledLevel s)
      raw := setBit s.srcp.shift 15 (!sampledLevel s) } := by
  obtain ⟨-, h4, e4⟩ := h.runFor_sampleAndClock (by decide)
  have hlast := advance_poll_last (r := { (sampleAndClock s).srcp with dcnt := 0 }) h4.cur
    (by rw [h4.place (by decide)])
  rw [sampleCycle, waitFor_srcp, hlast, e4]

/-! ### The whole run -/

/-- SHIFT at the i-th sample of a POLL that began in s. -/
def pollShift (s : State) : Nat → Half
  | 0 => s.srcp.shift
  | i + 1 => setBit (pollShift s i) i (!sampledLevel (atSample s i))

/-- The samples taken before the n-th stand in the bits below n (42_poll.md R118). -/
theorem getLsbD_pollShift (s : State) {i n : Nat} (hin : i < n) (hi : i < 16) :
    (pollShift s n).getLsbD i = !sampledLevel (atSample s i) := by
  induction n with
  | zero => omega
  | succ n ih =>
    rw [pollShift, getLsbD_setBit _ _ _ _ hi]
    split
    next h => rw [h]
    next h => exact ih (by omega)

theorem Running.at_sample {s : State} (h : Running s .poll 0) {i : Nat} (hi : i < 16) :
    Running (atSample s i) .poll (5 * i + 4) ∧
      (atSample s i).srcp = { s.srcp with
        dcnt := 0, shift := pollShift s i, upc := BitVec.ofNat 7 (5 * i + 4) } := by
  induction i with
  | zero => exact h.runFor_latchPulse.2
  | succ i ih =>
    obtain ⟨hrun, hsrcp⟩ := ih (by omega)
    obtain ⟨hnext, enext⟩ := hrun.next_cycle hi
    rw [atSample_succ]
    rw [hsrcp] at enext
    exact ⟨hnext, enext⟩

theorem Running.runFor_atSample {s : State} (h : Running s .poll 0) {i : Nat} (hi : i ≤ 16) (k : Nat) :
    runFor (k + 5 * i + 4) s = runFor k (atSample s i) := by
  induction i generalizing k with
  | zero => exact h.runFor_latchPulse.1 k
  | succ i ih =>
    have hk : k + 5 * (i + 1) + 4 = k + 5 + 5 * i + 4 := by omega
    rw [hk, ih (by omega), atSample_succ]
    exact (h.at_sample hi).1.runFor_sampleCycle hi k

/-- The 84 steps of POLL, and what they leave in SRCP. -/
theorem Running.runFor_poll {s : State} (h : Running s .poll 0) :
    runFor 84 s = .next (atSample s 16) ∧
      (atSample s 16).srcp = { s.srcp with
        busy := false, upc := 0#7, shift := pollShift s 16, raw := pollShift s 16, rawValid := true, dcnt := 0 } := by
  obtain ⟨h15, e15⟩ := h.at_sample (i := 15) (by decide)
  refine ⟨h.runFor_atSample le_rfl 0, ?_⟩
  rw [atSample_succ, h15.last_cycle, e15]
  rfl

end Sys2Proof.Machine
end

section
/-! The time a POLL waits (42_poll.md R123, 40_line_ops.md R96). -/

namespace Sys2Proof.Machine

/-- From s to t at least `lo` and at most `hi` microseconds were waited, the latter up to one tick of rounding for each
of n WAITs (log 12). -/
structure Waited (lo hi n : Nat) (s t : State) : Prop where
  params : t.params = s.params
  later : s.waited ≤ t.waited
  at_least : lo * s.params.fTick ≤ (t.waited - s.waited) * 1000000
  at_most : (t.waited - s.waited) * 1000000 ≤ hi * s.params.fTick + n * 1000000

theorem Waited.none {s t : State} (hp : t.params = s.params) (hw : t.waited = s.waited) : Waited 0 0 0 s t :=
  ⟨hp, hw.ge, by omega, by omega⟩

theorem Waited.trans {lo hi n lo' hi' n' : Nat} {s t u : State} (h : Waited lo hi n s t)
    (h' : Waited lo' hi' n' t u) : Waited (lo + lo') (hi + hi') (n + n') s u := by
  obtain ⟨hp, hle, hlo, hhi⟩ := h
  obtain ⟨hp', hle', hlo', hhi'⟩ := h'
  rw [hp] at hlo' hhi'
  have hsum : u.waited - s.waited = (t.waited - s.waited) + (u.waited - t.waited) := by omega
  refine ⟨hp'.trans hp, hle.trans hle', ?_, ?_⟩ <;> simp only [hsum, Nat.add_mul]
  · exact Nat.add_le_add hlo hlo'
  · exact (Nat.add_le_add hhi hhi').trans_eq (Nat.add_add_add_comm ..)

theorem Waited.iterate {lo hi n : Nat} {f : State → State} (h : ∀ s, Waited lo hi n s (f s)) (k : Nat) (s : State) :
    Waited (k * lo) (k * hi) (k * n) s (times f k s) := by
  induction k with
  | zero =>
    simp only [Nat.zero_mul]
    exact .none rfl rfl
  | succ k ih =>
    rw [times_succ]
    simpa only [Nat.add_one_mul] using ih.trans (h _)

theorem waited_waitFor (c : DelayClass) (s : State) :
    Waited (classRange c).1 (classRange c).2 1 s (waitFor c s) := by
  obtain ⟨n, hn, hlo, hhi, -⟩ := waitFor_within c s
  have hw : (waitFor c s).waited = s.waited + n := by rw [hn]
  have hsub : (waitFor c s).waited - s.waited = n := by omega
  refine ⟨rfl, by omega, ?_, ?_⟩ <;> rw [hsub]
  · exact hlo
  · omega

theorem waited_driveLine (b : Bool) (l : Line) (s : State) : Waited 0 0 0 s (driveLine b l s) := by
  cases b <;> exact .none rfl rfl

theorem waited_latchPulse (s : State) : Waited 18 30 2 s (latchPulse s) :=
  (waited_driveLine true .latch s).trans (waited_waitFor .tLH _) |>.trans (waited_driveLine false .latch _)
    |>.trans (waited_waitFor .tLL _)

theorem waited_sampleCycle (s : State) : Waited 12 24 2 s (sampleCycle s) :=
  (Waited.none (s := s) (t := sampleData s) rfl rfl).trans (waited_driveLine false .clk _)
    |>.trans (waited_waitFor .tCL _) |>.trans (waited_driveLine true .clk _) |>.trans (waited_waitFor .tCH _)

theorem waited_atSample (s : State) (i : Nat) : Waited (18 + i * 12) (30 + i * 24) (2 + i * 2) s (atSample s i) :=
  (waited_latchPulse s).trans (.iterate waited_sampleCycle i _)

/-- Settles O47: two WAITs of the latch pulse and thirty-two of the cycles. -/
theorem pollWaitsAreBounded : Obligations.PollWaitsAreBounded := by
  intro s hi hr hb hc hu
  obtain ⟨hrun, hsrcp⟩ := Running.runFor_poll ⟨hi, hr, hb, hc, hu⟩
  obtain ⟨-, hlater, hleast, hmost⟩ := waited_atSample s 16
  exact ⟨_, hrun, by rw [hsrcp], by rw [hsrcp], hlater, hleast, hmost⟩

end Sys2Proof.Machine
end

section
/-! The lines, the draws and the sample of a POLL (42_poll.md R117 to R119). -/

namespace Sys2Proof.Machine

/-! ### The lines -/

/-- Of two levels driven on one line the second stays. -/
theorem LineEffect.Acts.drives_again {l : Line} {b c : Bool} {ps : Params} {g g' g'' : Gpio}
    (h : (LineEffect.drives l b).Acts ps g g') (h' : (LineEffect.drives l c).Acts ps g' g'') :
    (LineEffect.drives l c).Acts ps g g'' := by
  obtain ⟨hfsel, hout⟩ := h
  obtain ⟨hfsel', hout'⟩ := h'
  refine ⟨hfsel'.trans hfsel, fun q => ?_⟩
  rw [hout', hout]
  split <;> rfl

@[simp] theorem driveLine_params (b : Bool) (l : Line) (s : State) : (driveLine b l s).params = s.params :=
  (driveLine_outside b l s).params

theorem atSample_params (s : State) (i : Nat) : (atSample s i).params = s.params := (waited_atSample s i).params

theorem driveLine_twice_acts (b c : Bool) (d : DelayClass) (l : Line) {s : State} (h : ParamsWf s.params) :
    (LineEffect.drives l c).Acts s.params s.gpio (driveLine c l (waitFor d (driveLine b l s))).gpio := by
  have hp := driveLine_params b l s
  have hagain := driveLine_acts c l (s := waitFor d (driveLine b l s)) (by rw [waitFor_params, hp]; exact h)
  rw [waitFor_params, waitFor_gpio, hp] at hagain
  exact (driveLine_acts b l h).drives_again hagain

/-- After the latch pulse the latch is low, and no other line has moved. -/
theorem latchPulse_acts {s : State} (h : ParamsWf s.params) :
    (LineEffect.drives .latch false).Acts s.params s.gpio (latchPulse s).gpio :=
  driveLine_twice_acts true false .tLH .latch h

/-- After a cycle the clock is high, and no other line has moved. -/
theorem sampleCycle_acts {s : State} (h : ParamsWf s.params) :
    (LineEffect.drives .clk true).Acts s.params s.gpio (sampleCycle s).gpio :=
  driveLine_twice_acts false true .tCL .clk (s := sampleData s) h

/-- Along POLL no function-select byte changes, and the latch is low at every sample. -/
theorem atSample_lines {s : State} (h : ParamsWf s.params) (i : Nat) :
    (atSample s i).gpio.fsel = s.gpio.fsel ∧ pinOut (atSample s i).gpio s.params.pinLatch = false := by
  induction i with
  | zero =>
    obtain ⟨hfsel, hout⟩ := latchPulse_acts h
    exact ⟨hfsel, (hout _).trans (if_pos rfl)⟩
  | succ i ih =>
    have hp := atSample_params s i
    obtain ⟨hfsel, hout⟩ := sampleCycle_acts (s := atSample s i) (hp.symm ▸ h)
    rw [hp] at hout
    rw [atSample_succ]
    exact ⟨hfsel.trans ih.1, (hout _).trans ((if_neg h.clk_ne_latch.symm).trans ih.2)⟩

/-- After each cycle the clock is high. -/
theorem atSample_clk {s : State} (h : ParamsWf s.params) (i : Nat) :
    pinOut (atSample s (i + 1)).gpio s.params.pinClk = true := by
  have hp := atSample_params s i
  obtain ⟨-, hout⟩ := sampleCycle_acts (s := atSample s i) (hp.symm ▸ h)
  rw [hp] at hout
  rw [atSample_succ]
  exact (hout _).trans (if_pos rfl)

/-! ### The draws -/

@[simp] theorem driveLine_env (b : Bool) (l : Line) (s : State) : (driveLine b l s).env = s.env := by
  cases b <;> rfl

theorem latchPulse_env (s : State) : (latchPulse s).env = tookWait (tookWait s.env) := by
  simp [latchPulse]

theorem sampleCycle_env (s : State) : (sampleCycle s).env = tookWait (tookWait (tookLevel s.env)) := by
  simp [sampleCycle, sampleAndClock]

/-- The draws before the i-th sample are those of 42_poll.md R111's micro-operations. -/
theorem atSample_env (s : State) (i : Nat) : (atSample s i).env = envAtSample s.env i := by
  induction i with
  | zero => exact latchPulse_env s
  | succ i ih => rw [atSample_succ, sampleCycle_env, ih, envAtSample, envAtSample, times_succ]

/-! ### The sample -/

theorem sampledLevel_eq {s : State} (h : ParamsWf s.params) : sampledLevel s = dataLevel s :=
  memReadBit_data_level h

/-- RAW's bit i after POLL is the complement of the data line's level at the i-th sample. -/
theorem getLsbD_pollShift_end {s : State} (h : ParamsWf s.params) {i : Nat} (hi : i < 16) :
    (pollShift s 16).getLsbD i = !dataLevel (atSample s i) := by
  rw [getLsbD_pollShift s hi hi, sampledLevel_eq]
  exact (atSample_params s i).symm ▸ h

/-! ### Without a controller -/

theorem ctrlSees_attached (c : Controller) (clk0 clk1 latch1 : Bool) :
    (ctrlSees c clk0 clk1 latch1).attached = c.attached := by
  unfold ctrlSees
  split
  · rfl
  · split <;> rfl

@[simp] theorem driveLine_attached (b : Bool) (l : Line) (s : State) :
    (driveLine b l s).ctrl.attached = s.ctrl.attached := by
  cases b <;> exact ctrlSees_attached _ _ _ _

theorem atSample_attached (s : State) (i : Nat) : (atSample s i).ctrl.attached = s.ctrl.attached := by
  induction i with
  | zero => simp [atSample, times, latchPulse]
  | succ i ih =>
    rw [← ih, atSample_succ]
    simp [sampleCycle, sampleAndClock]

/-- Settles O45: no controller answers, so each sample is its draw. -/
theorem pollRunReturnsTheSample : Obligations.PollRunReturnsTheSample := by
  intro s hwf hi hr hb hc hu hdetached
  have h := paramsWf_of_wf hwf
  obtain ⟨hrun, hsrcp⟩ := Running.runFor_poll ⟨hi, hr, hb, hc, hu⟩
  obtain ⟨hfsel, hlatch⟩ := atSample_lines h 16
  refine ⟨_, _, hrun, fun i hlt => ?_, hsrcp, atSample_clk h 15, hlatch, fun a => by rw [hfsel]⟩
  have hsilent : ¬ ctrlAnswers (atSample s i) = true := by
    rw [ctrlAnswers_iff, atSample_attached, hdetached]
    exact fun ⟨hatt, _⟩ => Bool.false_ne_true hatt
  rw [getLsbD_pollShift_end h hlt, dataLevel_of_not_answers hsilent, atSample_env]

end Sys2Proof.Machine
end

section
/-! POLL under the reference controller (42_poll.md R121, R122; log 20). -/

namespace Sys2Proof.Machine

/-! ### What the controller sees -/

theorem seenLevel_of_output {ps : Params} {g : Gpio} {p : Nat} (h : pinFsel ps g p = 1#3) :
    seenLevel ps g p = pinOut g p := by
  rw [seenLevel, pinLevel, pinIsOutput, h]
  rfl

/-- The outputs to the controller have CONFIGURE's direction, so that it sees their latches. -/
structure OutputsSeen (s : State) : Prop where
  params : ParamsWf s.params
  clk : pinFsel s.params s.gpio s.params.pinClk = 1#3
  latch : pinFsel s.params s.gpio s.params.pinLatch = 1#3

theorem OutputsSeen.of_same_fsel {s t : State} (h : OutputsSeen s) (hp : t.params = s.params)
    (hf : t.gpio.fsel = s.gpio.fsel) : OutputsSeen t := by
  obtain ⟨hparams, hclk, hlatch⟩ := h
  refine ⟨hp ▸ hparams, ?_, ?_⟩ <;> rw [hp, pinFsel_congr _ hf] <;> assumption

theorem OutputsSeen.after_driveLine {s : State} (h : OutputsSeen s) (b : Bool) (l : Line) :
    OutputsSeen (driveLine b l s) :=
  h.of_same_fsel (driveLine_params b l s) (driveLine_acts b l h.params).1

theorem OutputsSeen.after_waitFor {s : State} (h : OutputsSeen s) (c : DelayClass) : OutputsSeen (waitFor c s) :=
  h.of_same_fsel rfl rfl

theorem OutputsSeen.after_sampleData {s : State} (h : OutputsSeen s) : OutputsSeen (sampleData s) :=
  h.of_same_fsel rfl rfl

/-- What CTRL does when SEQ drives a line, by the latches (42_poll.md R121). -/
theorem OutputsSeen.driveLine_ctrl {s : State} (h : OutputsSeen s) (b : Bool) (l : Line) :
    (driveLine b l s).ctrl = ctrlSees s.ctrl (pinOut s.gpio s.params.pinClk)
      (if s.params.pinClk = linePin s.params l then b else pinOut s.gpio s.params.pinClk)
      (if s.params.pinLatch = linePin s.params l then b else pinOut s.gpio s.params.pinLatch) := by
  obtain ⟨g, c, ht, hfsel, hout, hc⟩ := driveLine_spec b l s h.params
  rw [ht, hc, seenLevel_of_output h.clk, seenLevel_of_output (by rw [pinFsel_congr _ hfsel, h.clk]),
    seenLevel_of_output (by rw [pinFsel_congr _ hfsel, h.latch]), hout, hout]

/-- LSET LATCH loads the buttons. -/
theorem OutputsSeen.ctrl_setLatch {s : State} (h : OutputsSeen s) :
    (driveLine true .latch s).ctrl = { s.ctrl with creg := s.ctrl.btn, k := 0 } := by
  rw [h.driveLine_ctrl]
  simp [linePin, ctrlSees]

/-- LCLR LATCH moves no clock. -/
theorem OutputsSeen.ctrl_clearLatch {s : State} (h : OutputsSeen s) :
    (driveLine false .latch s).ctrl = s.ctrl := by
  rw [h.driveLine_ctrl]
  simp [linePin, ctrlSees, h.params.clk_ne_latch]

/-- LCLR CLK is no rising edge. -/
theorem OutputsSeen.ctrl_clearClk {s : State} (h : OutputsSeen s)
    (hlow : pinOut s.gpio s.params.pinLatch = false) : (driveLine false .clk s).ctrl = s.ctrl := by
  rw [h.driveLine_ctrl]
  simp [linePin, ctrlSees, h.params.clk_ne_latch.symm, hlow]

/-- LSET CLK with the clock low is a rising edge. -/
theorem OutputsSeen.ctrl_setClk {s : State} (h : OutputsSeen s) (hlow : pinOut s.gpio s.params.pinLatch = false)
    (hclk : pinOut s.gpio s.params.pinClk = false) :
    (driveLine true .clk s).ctrl = { s.ctrl with k := min 16 (s.ctrl.k + 1) } := by
  rw [h.driveLine_ctrl]
  simp [linePin, ctrlSees, h.params.clk_ne_latch.symm, hlow, hclk]

/-! ### The controller along a POLL -/

theorem OutputsSeen.latchPulse_ctrl {s : State} (h : OutputsSeen s) :
    (latchPulse s).ctrl = { s.ctrl with creg := s.ctrl.btn, k := 0 } :=
  ((h.after_driveLine true .latch).after_waitFor .tLH).ctrl_clearLatch.trans h.ctrl_setLatch

/-- Each cycle has one rising edge of the clock (42_poll.md R122). -/
theorem OutputsSeen.sampleCycle_ctrl {s : State} (h : OutputsSeen s)
    (hlow : pinOut s.gpio s.params.pinLatch = false) :
    (sampleCycle s).ctrl = { s.ctrl with k := min 16 (s.ctrl.k + 1) } := by
  have hp : (driveLine false .clk (sampleData s)).params = s.params :=
    driveLine_params false .clk (sampleData s)
  obtain ⟨-, hout⟩ := driveLine_acts false .clk (s := sampleData s) h.params
  have hfall := h.after_sampleData.ctrl_clearClk hlow
  have hrise := ((h.after_sampleData.after_driveLine false .clk).after_waitFor .tCL).ctrl_setClk
    (by rw [waitFor_params, waitFor_gpio, hp]; exact (hout _).trans ((if_neg h.params.clk_ne_latch.symm).trans hlow))
    (by rw [waitFor_params, waitFor_gpio, hp]; exact (hout _).trans (if_pos rfl))
  rw [waitFor_ctrl, hfall, sampleData_ctrl] at hrise
  exact hrise

/-- At the i-th sample CREG holds the buttons and K is i (42_poll.md R122). -/
theorem OutputsSeen.atSample_ctrl {s : State} (h : OutputsSeen s) {i : Nat} (hi : i ≤ 16) :
    (atSample s i).ctrl = { s.ctrl with creg := s.ctrl.btn, k := i } := by
  induction i with
  | zero => exact h.latchPulse_ctrl
  | succ i ih =>
    have hp := atSample_params s i
    obtain ⟨hfsel, hlow⟩ := atSample_lines h.params i
    have hcycle := (h.of_same_fsel hp hfsel).sampleCycle_ctrl (hp ▸ hlow)
    rw [atSample_succ, hcycle, ih (by omega), min_eq_right hi]

/-- A press while LATCH is low changes BTN alone (42_poll.md R121). -/
theorem pressButtons_latch_low {s : State} (b : BitVec 16) (hlatch : pinFsel s.params s.gpio s.params.pinLatch = 1#3)
    (hlow : pinOut s.gpio s.params.pinLatch = false) :
    pressButtons b s = { s with ctrl := { s.ctrl with btn := b } } := by
  rw [pressButtons, seenLevel_of_output hlatch, hlow]
  rfl

/-- Settles O46: the controller answers every sample, the i-th with the complement of button i. -/
theorem pollReturnsTheButtonsOfTheReferenceController :
    Obligations.PollReturnsTheButtonsOfTheReferenceController := by
  refine ⟨fun s hwf hi hr hb hc hu hatt hclk hlatch hdata _ => ?_, fun s b rest hi hlatch hlow => ?_⟩
  · have h : OutputsSeen s := ⟨paramsWf_of_wf hwf, hclk, hlatch⟩
    obtain ⟨hrun, hsrcp⟩ := Running.runFor_poll ⟨hi, hr, hb, hc, hu⟩
    have hctrl := h.atSample_ctrl le_rfl
    refine ⟨_, hrun, ?_, by rw [hsrcp], by rw [hsrcp], by rw [hctrl], by rw [hctrl]⟩
    rw [hsrcp]
    refine BitVec.eq_of_getLsbD_eq fun i hlt => ?_
    have hctrl := h.atSample_ctrl hlt.le
    have hanswers : ctrlAnswers (atSample s i) = true := by
      rw [ctrlAnswers_iff, hctrl, atSample_params, pinFsel_congr _ (atSample_lines h.params i).1, hdata]
      exact ⟨hatt, Nat.le_of_lt_succ hlt, by decide⟩
    rw [getLsbD_pollShift_end h.params hlt, dataLevel_of_answers hanswers, hctrl, Bool.not_not]
  · rw [step, nextTurn, hi]
    exact congrArg Host.Outcome.next (pressButtons_latch_low (s := { s with inputs := rest }) b hlatch hlow)

end Sys2Proof.Machine
end

section
/-! DECODE and DECODE_IMM (43_decode.md R133, R136 to R138): acceptance, one EMIT, and the run of eleven EMITs, where SEQ
holds each beat until the sink takes it (log 13). -/

namespace Sys2Proof.Machine

/-! ### Acceptance and one EMIT -/

/-- Settles O15: with a sample, DECODE is legal where the lines are held. -/
theorem decodeAccepted : Obligations.DecodeAccepted := by
  intro s hb hl hv
  have hlegal : legal .decode s.srcp.lstate s.srcp.rawValid = true := by
    rw [legal, (linesHeld_iff _).2 hl, hv]
    rfl
  exact congrArg Host.Outcome.next (issue_of_legal _ _ hb hlegal)

/-- Settles O16: DECODE_IMM is legal where the lines are held. -/
theorem decodeImmAccepted : Obligations.DecodeImmAccepted :=
  fun s _ hb hl => congrArg Host.Outcome.next (issue_of_legal (s := s) _ _ hb ((linesHeld_iff _).2 hl))

/-- Settles O31, by the draw of EVT_READY. -/
theorem emitTransfersWhenTheSinkIsReady : Obligations.EmitTransfersWhenTheSinkIsReady := by
  refine fun s => ⟨fun h => ?_, fun h => ?_⟩ <;> simp only [exec, execEmit, h]
  · rfl
  · rfl

/-! ### The beats a sink accepts -/

theorem beatsAccepted_succ (k : Nat) (e : Env) :
    beatsAccepted (k + 1) e = beatsAccepted k e + if nextReady (times tookReady k e) then 1 else 0 := by
  induction k generalizing e with
  | zero => exact Nat.add_comm _ _
  | succ k ih => rw [beatsAccepted, ih, beatsAccepted, Nat.add_assoc, times]

/-- At most one beat a tick. -/
theorem beatsAccepted_le (k : Nat) (e : Env) : beatsAccepted k e ≤ k := by
  induction k with
  | zero => exact le_rfl
  | succ k ih => rw [beatsAccepted_succ]; split <;> omega

/-- A sink that is always ready accepts one beat a tick. -/
theorem beatsAccepted_of_ready {k : Nat} {e : Env} (h : ∀ n, n < k → nextReady (times tookReady n e) = true) :
    beatsAccepted k e = k := by
  induction k with
  | zero => rfl
  | succ k ih => rw [beatsAccepted_succ, ih fun n hn => h n (by omega), h k (by omega), if_pos rfl]

/-- Before a tick at which SINK is ready there is the first such tick from k on, with no beat accepted in between. -/
theorem exists_next_ready (k d : Nat) {e : Env} (h : nextReady (times tookReady (k + d) e) = true) :
    ∃ n, beatsAccepted n e = beatsAccepted k e ∧ nextReady (times tookReady n e) = true := by
  induction d generalizing k with
  | zero => exact ⟨k, rfl, h⟩
  | succ d ih =>
    cases hk : nextReady (times tookReady k e) with
    | true => exact ⟨k, rfl, hk⟩
    | false =>
      obtain ⟨n, hn, hready⟩ := ih (k + 1) (by rwa [Nat.add_right_comm])
      rw [beatsAccepted_succ, hk] at hn
      exact ⟨n, hn, hready⟩

/-! ### The decode after some of its beats -/

/-- What a decode that began with r leaves in SRCP's registers once j beats are taken (10_state.md R35; log 8). -/
def regsAfterBeats (r : Srcp) (j : Nat) : Srcp :=
  if j < 11 then { r with upc := BitVec.ofNat 7 j } else { r with busy := false, upc := 0#7 }

/-- The first j words of a decode of v, latest first. -/
def takenBeats (v : Half) (j : Nat) : List Half := ((List.range j).map fun k => evword v k).reverse

/-- The decode that began in s, once j beats are taken and the environment is e. -/
def afterBeats (s : State) (j : Nat) (e : Env) : State :=
  { s with
    srcp := regsAfterBeats s.srcp j
    env := e
    delivered := takenBeats s.srcp.evtSrc j ++ s.delivered }

theorem regsAfterBeats_inside {j : Nat} (hj : j < 11) (r : Srcp) :
    regsAfterBeats r j = { r with upc := BitVec.ofNat 7 j } := if_pos hj

theorem regsAfterBeats_evtSrc (r : Srcp) (j : Nat) : (regsAfterBeats r j).evtSrc = r.evtSrc := by
  unfold regsAfterBeats
  split <;> rfl

theorem takenBeats_succ (v : Half) (j : Nat) : takenBeats v (j + 1) = evword v j :: takenBeats v j := by
  simp [takenBeats, List.range_succ]

/-- Each beat taken is SEQ's move, the last one the command's end (43_decode.md R137, R138; log 8). -/
theorem advance_regsAfterBeats {r : Srcp} (hc : r.cur = .decode ∨ r.cur = .decodeImm) {j : Nat} (hj : j < 11) :
    advance (regsAfterBeats r j) = regsAfterBeats r (j + 1) := by
  have hlen : (microprogram r.cur).length = 11 := by rcases hc with hc | hc <;> rw [hc] <;> rfl
  rw [regsAfterBeats_inside hj]
  by_cases hlast : j + 1 < 11
  · rw [regsAfterBeats_inside hlast]
    exact advance_at rfl rfl (hlen.symm ▸ hlast)
  · obtain rfl : j = 10 := by omega
    rw [advance_last _ hlen.le]
    rcases hc with hc | hc <;> simp [completion, hc, regsAfterBeats]

/-- Before its first beat the decode is where it began. -/
theorem Running.afterBeats_zero {s : State} {op : Op} (h : Running s op 0) : afterBeats s 0 s.env = s := by
  have hregs : regsAfterBeats s.srcp 0 = s.srcp := by
    rw [regsAfterBeats_inside (by decide), ← h.upc]
  rw [afterBeats, hregs]
  rfl

/-! ### Some ticks of the run -/

/-- One tick: the beat on offer is taken where SINK is ready, and else stays on offer (43_decode.md R136; log 13). -/
theorem Running.step_afterBeats {s : State} {op : Op} (h : Running s op 0) (hop : op = .decode ∨ op = .decodeImm)
    {j : Nat} (hj : j < 11) (e : Env) :
    step (afterBeats s j e) = .next (afterBeats s (j + if nextReady e then 1 else 0) (tookReady e)) := by
  have hrun : Running (afterBeats s j e) op j := by
    have hregs : (afterBeats s j e).srcp = { s.srcp with upc := BitVec.ofNat 7 j } := regsAfterBeats_inside hj s.srcp
    exact ⟨h.pending, h.released, hregs ▸ h.busy, hregs ▸ h.cur, hregs ▸ rfl⟩
  have hbyte : (microprogram op)[j]? = some 0xE0#8 := by
    rcases hop with rfl | rfl <;> exact List.getElem?_replicate_of_lt hj
  have hlen : j < (microprogram op).length := by rcases hop with rfl | rfl <;> exact hj
  have hemit := emitTransfersWhenTheSinkIsReady (afterBeats s j e)
  rw [hrun.step_eq (by rcases hop with rfl | rfl <;> nofun) hbyte (i := .emit) rfl]
  cases hready : nextReady e with
  | false => exact hemit.2 hready
  | true =>
    rw [hemit.1 hready, hrun.place hlen]
    simp only [afterBeats, advance_regsAfterBeats (h.cur ▸ hop) hj, regsAfterBeats_evtSrc, takenBeats_succ, if_true,
      List.cons_append]

/-- Any number of ticks, as long as the last of them still has a beat on offer. -/
theorem Running.runFor_afterBeats {s : State} {op : Op} (h : Running s op 0) (hop : op = .decode ∨ op = .decodeImm)
    {k j : Nat} {e : Env} (hj : j + beatsAccepted k e < 11) :
    runFor (k + 1) (afterBeats s j e) =
      .next (afterBeats s (j + beatsAccepted (k + 1) e) (times tookReady (k + 1) e)) := by
  induction k generalizing j e with
  | zero => exact runFor_of_step (h.step_afterBeats hop hj e) 0
  | succ k ih =>
    rw [beatsAccepted, ← Nat.add_assoc] at hj
    have hbeats : beatsAccepted (k + 1 + 1) e = (if nextReady e then 1 else 0) + beatsAccepted (k + 1) (tookReady e) :=
      rfl
    rw [runFor_of_step (h.step_afterBeats hop (by omega) e), ih hj, hbeats, ← Nat.add_assoc]
    rfl

/-- Where ten beats are taken in k ticks and SINK is ready at the next, the decode ends there (log 8). -/
theorem Running.runFor_decode {s : State} {op : Op} (h : Running s op 0) (hop : op = .decode ∨ op = .decodeImm)
    {k : Nat} (hk : beatsAccepted k s.env = 10) (hready : nextReady (times tookReady k s.env) = true) :
    runFor (k + 1) s = .next { s with
      srcp := { s.srcp with busy := false, upc := 0#7 }
      env := times tookReady (k + 1) s.env
      delivered := (decodeWords s.srcp.evtSrc).reverse ++ s.delivered } := by
  have hlast : beatsAccepted (k + 1) s.env = 11 := by rw [beatsAccepted_succ, hk, hready, if_pos rfl]
  have hrun := h.runFor_afterBeats hop (k := k) (j := 0) (e := s.env) (by omega)
  rw [h.afterBeats_zero, hlast] at hrun
  exact hrun

/-! ### The whole run -/

/-- A fair sink accepts each of the eleven beats at some tick (70_reset_and_hazards.md R190). -/
theorem SinkFair.beat_accepted {s : State} (hf : SinkFair s) (hv : evtValid s.srcp = true) (hu : s.srcp.upc = 0#7)
    {b : Nat} (hb : b < 11) :
    ∃ k, beatsAccepted k s.env = b ∧ nextReady (times tookReady k s.env) = true := by
  have from_tick (k : Nat) (hk : beatsAccepted k s.env < 11) :
      ∃ n, beatsAccepted n s.env = beatsAccepted k s.env ∧ nextReady (times tookReady n s.env) = true := by
    obtain ⟨n, hkn, hn⟩ := hf hv k (by simpa [hu] using hk)
    obtain ⟨d, rfl⟩ := Nat.exists_eq_add_of_le hkn
    exact exists_next_ready k d hn
  induction b with
  | zero => exact from_tick 0 (Nat.zero_lt_succ 10)
  | succ b ih =>
    obtain ⟨k, hk, hready⟩ := ih (by omega)
    have hnext : beatsAccepted (k + 1) s.env = b + 1 := by rw [beatsAccepted_succ, hk, hready, if_pos rfl]
    rw [← hnext] at hb ⊢
    exact from_tick (k + 1) hb

/-- Settles O48: the eleventh beat is taken at the eleventh tick, or at the tick that fairness gives. -/
theorem decodeRunDeliversElevenBeats : Obligations.DecodeRunDeliversElevenBeats := by
  intro s hi hr hb hc hu
  have hrun : Running s s.srcp.cur 0 := ⟨hi, hr, hb, rfl, hu⟩
  refine ⟨fun hready => ?_, fun hfair => ?_⟩
  · exact hrun.runFor_decode hc (beatsAccepted_of_ready fun n hn => hready n (by omega)) (hready 10 (by decide))
  · have hvalid : evtValid s.srcp = true := by rcases hc with hc | hc <;> simp [evtValid, hb, hc]
    obtain ⟨k, hk, hready⟩ := hfair.beat_accepted hvalid hu (b := 10) (by decide)
    have h10 := beatsAccepted_le k s.env
    exact ⟨k + 1, by omega, hrun.runFor_decode hc hk hready⟩

end Sys2Proof.Machine
end

section
/-! The eleven events of a Raw Sample (43_decode.md R130 to R140): where each key and axis stands, the fields of its word,
and which bits of the sample it shows. -/

namespace Sys2Proof.Machine

/-! ### The two codes of an axis (R132) -/

/-- Settles O33: the tables are evaluated; sign extension keeps the integer at any width. -/
theorem negativeDirectionWins : Obligations.NegativeDirectionWins := by
  refine ⟨rfl, rfl, rfl, rfl, by decide, by decide, by decide, fun v => ⟨?_, fun n hn => ?_⟩⟩
  · cases v <;> decide
  · exact BitVec.toInt_signExtend_of_le hn

theorem encAxis_inj {v v' : AxisValue} : encAxis v = encAxis v' ↔ v = v' := by
  cases v <;> cases v' <;> decide

/-- Negative wins: the positive bit shows where the negative one is clear (R132). -/
theorem axisValue_eq_iff (n p n' p' : Bool) :
    axisValue n p = axisValue n' p' ↔ n = n' ∧ (p = p' ∨ (n = true ∧ n' = true)) := by
  revert n p n' p'
  decide

/-! ### The fields of an event word (30_encoding.md R79) -/

/-- The high byte of an event's word: TAG, 00 and ID. -/
def eventHead : Event → Byte
  | .key k _ => 0b00#2 ++ 0#2 ++ BitVec.ofNat 4 (keyIndex k)
  | .axis x _ => 0b01#2 ++ 0#2 ++ BitVec.ofNat 4 (negativeBit x)
  | .sync => 0b10#2 ++ 0#2 ++ 0#4

/-- VAL of an event's word. -/
def eventVal : Event → BitVec 2
  | .key _ pressed => 0#1 ++ bit pressed
  | .axis _ v => encAxis v
  | .sync => 0#2

theorem eventWord_fields (e : Event) : eventWord e = eventHead e ++ (0#6 ++ eventVal e) := by
  cases e with
  | key k pressed => cases k <;> cases pressed <;> rfl
  | axis x v => cases x <;> cases v <;> rfl
  | sync => rfl

theorem eventWord_head (e : Event) : (eventWord e).extractLsb' 8 8 = eventHead e := by
  rw [eventWord_fields]
  exact BitVec.extractLsb'_append_eq_left

/-- Two events with the same TAG and ID are told apart by VAL. -/
theorem eventWord_eq_iff {e e' : Event} (h : eventHead e = eventHead e') :
    eventWord e = eventWord e' ↔ eventVal e = eventVal e' := by
  rw [eventWord_fields, eventWord_fields, h, BitVec.append_right_inj, BitVec.append_right_inj]

/-- A key's word shows its own bit of the sample. -/
theorem keyWord_eq_iff (r r' : Half) (n : Key) :
    eventWord (keyEvent r n) = eventWord (keyEvent r' n) ↔
      r.getLsbD (keyIndex n) = r'.getLsbD (keyIndex n) := by
  rw [eventWord_eq_iff (e := keyEvent r n) (e' := keyEvent r' n) rfl]
  simp only [keyEvent, eventVal]
  cases r.getLsbD (keyIndex n) <;> cases r'.getLsbD (keyIndex n) <;> decide

/-- An axis's word shows its negative bit, and its positive bit where the negative one is clear. -/
theorem axisWord_eq_iff (r r' : Half) (x : Axis) :
    eventWord (axisEvent r x) = eventWord (axisEvent r' x) ↔
      r.getLsbD (negativeBit x) = r'.getLsbD (negativeBit x) ∧
        (r.getLsbD (positiveBit x) = r'.getLsbD (positiveBit x) ∨
          (r.getLsbD (negativeBit x) = true ∧ r'.getLsbD (negativeBit x) = true)) := by
  rw [eventWord_eq_iff (e := axisEvent r x) (e' := axisEvent r' x) rfl, ← axisValue_eq_iff]
  exact encAxis_inj

/-! ### The eleven positions (R133) -/

/-- The position of a key's event. -/
def keyPlace : Key → Nat
  | .x => 0
  | .a => 1
  | .select => 2
  | .start => 3
  | .y => 6
  | .b => 7
  | .l => 8
  | .r => 9

/-- The position of an axis's event. -/
def axisPlace : Axis → Nat
  | .axisY => 4
  | .axisX => 5

theorem decodeEvents_keyPlace (r : Half) (n : Key) : (decodeEvents r)[keyPlace n]? = some (keyEvent r n) := by
  cases n <;> rfl

theorem decodeEvents_axisPlace (r : Half) (x : Axis) : (decodeEvents r)[axisPlace x]? = some (axisEvent r x) := by
  cases x <;> rfl

theorem decodeEvents_sync (r : Half) : (decodeEvents r)[10]? = some .sync := rfl

theorem evword_keyPlace (r : Half) (n : Key) : evword r (keyPlace n) = eventWord (keyEvent r n) := by
  rw [evword, decodeEvents_keyPlace]

theorem evword_axisPlace (r : Half) (x : Axis) : evword r (axisPlace x) = eventWord (axisEvent r x) := by
  rw [evword, decodeEvents_axisPlace]

/-- Past the sync there is no event (log 24). -/
theorem evword_past (r : Half) {k : Nat} (h : 11 ≤ k) : evword r k = 0x0000#16 := by
  have hnone : (decodeEvents r)[k]? = none := List.getElem?_eq_none h
  rw [evword, hnone]

theorem keyPlace_mem (n : Key) : keyPlace n ∈ [0, 1, 2, 3, 6, 7, 8, 9] := by
  cases n <;> decide

theorem axisPlace_mem (x : Axis) : axisPlace x ∈ [4, 5] := by
  cases x <;> decide

theorem keyPlace_lt (n : Key) : keyPlace n < 10 := by
  cases n <;> decide

theorem axisPlace_lt (x : Axis) : axisPlace x < 10 := by
  cases x <;> decide

theorem keyPlace_not_mem (n : Key) : keyPlace n ∉ [4, 5] := by
  cases n <;> decide

theorem axisPlace_not_mem (x : Axis) : axisPlace x ∉ [0, 1, 2, 3, 6, 7, 8, 9] := by
  cases x <;> decide

/-- A key at one of the first four positions has its position as its ID. -/
theorem exists_first_key {k : Nat} (h : k ≤ 3) : ∃ n, keyPlace n = k ∧ keyIndex n = k := by
  obtain rfl | rfl | rfl | rfl : k = 0 ∨ k = 1 ∨ k = 2 ∨ k = 3 := by omega
  · exact ⟨.x, rfl, rfl⟩
  · exact ⟨.a, rfl, rfl⟩
  · exact ⟨.select, rfl, rfl⟩
  · exact ⟨.start, rfl, rfl⟩

/-- Behind the axes a key's ID is two more than its position. -/
theorem exists_last_key {k : Nat} (h6 : 6 ≤ k) (h9 : k ≤ 9) : ∃ n, keyPlace n = k ∧ keyIndex n = k + 2 := by
  obtain rfl | rfl | rfl | rfl : k = 6 ∨ k = 7 ∨ k = 8 ∨ k = 9 := by omega
  · exact ⟨.y, rfl, rfl⟩
  · exact ⟨.b, rfl, rfl⟩
  · exact ⟨.l, rfl, rfl⟩
  · exact ⟨.r, rfl, rfl⟩

/-- Every position is a key's, an axis's or the sync's. -/
theorem place_cases {k : Nat} (h : k < 11) : (∃ n, k = keyPlace n) ∨ (∃ x, k = axisPlace x) ∨ k = 10 := by
  obtain h3 | rfl | rfl | ⟨h6, h9⟩ | rfl : k ≤ 3 ∨ k = 4 ∨ k = 5 ∨ (6 ≤ k ∧ k ≤ 9) ∨ k = 10 := by omega
  · obtain ⟨n, hn, -⟩ := exists_first_key h3
    exact .inl ⟨n, hn.symm⟩
  · exact .inr (.inl ⟨.axisY, rfl⟩)
  · exact .inr (.inl ⟨.axisX, rfl⟩)
  · obtain ⟨n, hn, -⟩ := exists_last_key h6 h9
    exact .inl ⟨n, hn.symm⟩
  · exact .inr (.inr rfl)

/-! ### The words of the positions (R134) -/

theorem bit_getLsbD (r : Half) (i : Nat) : bit (r.getLsbD i) = r.extractLsb' i 1 := by
  refine BitVec.eq_of_getLsbD_eq fun j hj => ?_
  obtain rfl : j = 0 := by omega
  simp [bit]

/-- A key's word, by its fields. -/
theorem evword_keyPlace_fields (r : Half) (n : Key) :
    evword r (keyPlace n) =
      0b00#2 ++ 0b00#2 ++ BitVec.ofNat 4 (keyIndex n) ++ 0#6 ++ 0#1 ++ r.extractLsb' (keyIndex n) 1 := by
  rw [evword_keyPlace, ← bit_getLsbD]
  rfl

/-- Settles O32, by what stands at the position. -/
theorem eventWordsAreTheFields : Obligations.EventWordsAreTheFields := by
  intro r k
  refine ⟨fun h => ?_, fun h => ?_, fun h => ?_, fun ⟨h6, h9⟩ => ?_, fun h => ?_⟩
  · obtain ⟨n, hplace, hindex⟩ := exists_first_key h
    rw [← hindex, ← evword_keyPlace_fields, hplace, hindex]
  · rw [h]; exact evword_axisPlace r .axisY
  · rw [h]; exact evword_axisPlace r .axisX
  · obtain ⟨n, hplace, hindex⟩ := exists_last_key h6 h9
    rw [← hindex, ← evword_keyPlace_fields, hplace]
  · rw [h]; rfl

/-- No bit of the sample reaches TAG or ID (R139). -/
theorem evword_head (r r' : Half) (k : Nat) :
    (evword r k).extractLsb' 8 8 = (evword r' k).extractLsb' 8 8 := by
  by_cases hk : k < 11
  · rcases place_cases hk with ⟨n, rfl⟩ | ⟨x, rfl⟩ | rfl
    · rw [evword_keyPlace, evword_keyPlace, eventWord_head, eventWord_head]
      rfl
    · rw [evword_axisPlace, evword_axisPlace, eventWord_head, eventWord_head]
      rfl
    · rfl
  · rw [evword_past r (by omega), evword_past r' (by omega)]

/-- Settles O34, by what stands at the position. -/
theorem decodeHasItsShape : Obligations.DecodeHasItsShape := by
  refine fun r => ⟨rfl, fun k e h => ?_, evword_head r 0x0000#16⟩
  have hk : k < 11 := (List.getElem?_eq_some_iff.mp h).1
  rcases place_cases hk with ⟨n, rfl⟩ | ⟨x, rfl⟩ | rfl
  · rw [decodeEvents_keyPlace] at h
    cases h
    exact ⟨iff_of_true ⟨n, _, rfl⟩ (keyPlace_mem n), iff_of_false nofun (keyPlace_not_mem n),
      iff_of_false nofun (keyPlace_lt n).ne⟩
  · rw [decodeEvents_axisPlace] at h
    cases h
    exact ⟨iff_of_false nofun (axisPlace_not_mem x), iff_of_true ⟨x, _, rfl⟩ (axisPlace_mem x),
      iff_of_false nofun (axisPlace_lt x).ne⟩
  · cases h
    exact ⟨iff_of_false nofun (by decide), iff_of_false nofun (by decide), iff_of_true rfl rfl⟩

/-! ### The bits an event sequence shows (R139, R140) -/

theorem keyIndex_lt (n : Key) : keyIndex n < 12 := by
  cases n <;> decide

theorem axisBits_lt (x : Axis) : negativeBit x < 12 ∧ positiveBit x < 12 := by
  cases x <;> decide

/-- Every bit below 12 is a key's or one of an axis's two. -/
theorem sampleBit_cases {i : Nat} (h : i < 12) :
    (∃ n, i = keyIndex n) ∨ (∃ x, i = negativeBit x) ∨ (∃ x, i = positiveBit x) := by
  obtain h3 | rfl | rfl | rfl | rfl | h8 : i ≤ 3 ∨ i = 4 ∨ i = 5 ∨ i = 6 ∨ i = 7 ∨ 8 ≤ i := by omega
  · obtain ⟨n, -, hn⟩ := exists_first_key h3
    exact .inl ⟨n, hn.symm⟩
  · exact .inr (.inl ⟨.axisY, rfl⟩)
  · exact .inr (.inr ⟨.axisY, rfl⟩)
  · exact .inr (.inl ⟨.axisX, rfl⟩)
  · exact .inr (.inr ⟨.axisX, rfl⟩)
  · obtain ⟨n, -, hn⟩ := exists_last_key (k := i - 2) (by omega) (by omega)
    exact .inl ⟨n, by omega⟩

/-- The two samples agree on bit i, or i is a positive bit that the negative one hides in both (R132). -/
def agreesAt (r r' : Half) (i : Nat) : Prop :=
  r.getLsbD i = r'.getLsbD i ∨
    (i = 5 ∧ r.getLsbD 4 = true ∧ r'.getLsbD 4 = true) ∨ (i = 7 ∧ r.getLsbD 6 = true ∧ r'.getLsbD 6 = true)

/-- No key's bit and no negative bit can be hidden. -/
theorem agreesAt_shown {r r' : Half} {i : Nat} (h5 : i ≠ 5) (h7 : i ≠ 7) :
    agreesAt r r' i ↔ r.getLsbD i = r'.getLsbD i := by
  simp [agreesAt, h5, h7]

theorem agreesAt_key (r r' : Half) (n : Key) :
    agreesAt r r' (keyIndex n) ↔ r.getLsbD (keyIndex n) = r'.getLsbD (keyIndex n) := by
  cases n <;> exact agreesAt_shown (by decide) (by decide)

theorem agreesAt_negative (r r' : Half) (x : Axis) :
    agreesAt r r' (negativeBit x) ↔ r.getLsbD (negativeBit x) = r'.getLsbD (negativeBit x) := by
  cases x <;> exact agreesAt_shown (by decide) (by decide)

theorem agreesAt_positive (r r' : Half) (x : Axis) :
    agreesAt r r' (positiveBit x) ↔
      r.getLsbD (positiveBit x) = r'.getLsbD (positiveBit x) ∨
        (r.getLsbD (negativeBit x) = true ∧ r'.getLsbD (negativeBit x) = true) := by
  cases x <;> simp [agreesAt, positiveBit, negativeBit]

/-- The words of two samples agree where each key's and each axis's does. -/
theorem evwords_eq_iff (r r' : Half) :
    (∀ k, k < 11 → evword r k = evword r' k) ↔
      (∀ n, eventWord (keyEvent r n) = eventWord (keyEvent r' n)) ∧
        ∀ x, eventWord (axisEvent r x) = eventWord (axisEvent r' x) := by
  refine ⟨fun h => ⟨fun n => ?_, fun x => ?_⟩, fun ⟨hkey, haxis⟩ k hk => ?_⟩
  · rw [← evword_keyPlace, ← evword_keyPlace]
    exact h _ (by have := keyPlace_lt n; omega)
  · rw [← evword_axisPlace, ← evword_axisPlace]
    exact h _ (by have := axisPlace_lt x; omega)
  · rcases place_cases hk with ⟨n, rfl⟩ | ⟨x, rfl⟩ | rfl
    · rw [evword_keyPlace, evword_keyPlace, hkey]
    · rw [evword_axisPlace, evword_axisPlace, haxis]
    · rfl

/-- Settles O35: each key's word shows its bit, each axis's word its two bits, the negative one first. -/
theorem eventsDetermineTheSampleUpToPrecedence : Obligations.EventsDetermineTheSampleUpToPrecedence := by
  intro r r'
  change _ ↔ ∀ i, i < 12 → agreesAt r r' i
  simp only [evwords_eq_iff, keyWord_eq_iff, axisWord_eq_iff, ← agreesAt_key, ← agreesAt_negative, ← agreesAt_positive]
  refine ⟨fun ⟨hkey, haxis⟩ i hi => ?_, fun h => ⟨fun n => h _ (keyIndex_lt n), fun x => ?_⟩⟩
  · rcases sampleBit_cases hi with ⟨n, rfl⟩ | ⟨x, rfl⟩ | ⟨x, rfl⟩
    · exact hkey n
    · exact (haxis x).1
    · exact (haxis x).2
  · exact ⟨h _ (axisBits_lt x).1, h _ (axisBits_lt x).2⟩

/-- Bits 0 to 11 fix the events. -/
theorem decodeEvents_congr {r r' : Half} (h : ∀ i, i < 12 → r.getLsbD i = r'.getLsbD i) :
    decodeEvents r = decodeEvents r' := by
  have hkey (n : Key) : keyEvent r n = keyEvent r' n := by
    rw [keyEvent, h _ (keyIndex_lt n)]
    rfl
  have haxis (x : Axis) : axisEvent r x = axisEvent r' x := by
    rw [axisEvent, h _ (axisBits_lt x).1, h _ (axisBits_lt x).2]
    rfl
  simp only [decodeEvents, hkey, haxis]

/-- The mask keeps bits 0 to 11. -/
theorem getLsbD_and_lowMask (r : Half) {i : Nat} (hi : i < 12) : (r &&& 0x0FFF#16).getLsbD i = r.getLsbD i := by
  have hmask : ∀ j : Fin 12, (0x0FFF#16).getLsbD j.val = true := by decide
  rw [BitVec.getLsbD_and, hmask ⟨i, hi⟩, Bool.and_true]

/-- Settles O36: the mask keeps the bits that fix the events. -/
theorem highBitsAffectNoEvent : Obligations.HighBitsAffectNoEvent := by
  intro r
  have hevents : decodeEvents r = decodeEvents (r &&& 0x0FFF#16) :=
    decodeEvents_congr fun i hi => (getLsbD_and_lowMask r hi).symm
  exact ⟨hevents, fun k => by rw [evword, evword, hevents]⟩

end Sys2Proof.Machine
end

section
/-! Raising an error (60_exceptions.md R153), and the commands that are turned away because they are out of place
(60_exceptions.md R152). -/

namespace Sys2Proof.Machine

/-! ### What raising an error writes -/

theorem errBit_inj {d e : ErrCode} : errBit d = errBit e ↔ d = e := by
  cases d <;> cases e <;> decide

/-- The errors occupy bits 8 to 12 of STATUS (10_state.md R24). -/
theorem errBit_pos (e : ErrCode) : errBit e ≠ 0 := by
  cases e <;> decide

/-- RESOURCE and ALLOC, which end a CONFIGURE, are the errors that write BUSY and UPC. -/
theorem raiseErr_ends (e : ErrCode) (w : Word) (s : State) :
    (raiseErr e w s).srcp.busy = (if e = .resource ∨ e = .alloc then false else s.srcp.busy) ∧
    (raiseErr e w s).srcp.upc = (if e = .resource ∨ e = .alloc then 0#7 else s.srcp.upc) := by
  cases e <;> exact ⟨rfl, rfl⟩

/-- The registers that no error writes, besides RAW (`raiseErr_raw`) and OWNED (`owned_raiseErr`). -/
theorem raiseErr_keeps (e : ErrCode) (w : Word) (s : State) :
    (raiseErr e w s).srcp.cur = s.srcp.cur ∧ (raiseErr e w s).srcp.lstate = s.srcp.lstate ∧
    (raiseErr e w s).srcp.shift = s.srcp.shift ∧ (raiseErr e w s).srcp.evtSrc = s.srcp.evtSrc ∧
    (raiseErr e w s).srcp.dcnt = s.srcp.dcnt ∧ (raiseErr e w s).srcp.rawValid = s.srcp.rawValid := by
  cases e <;> exact ⟨rfl, rfl, rfl, rfl, rfl, rfl⟩

theorem raiseErr_errcmd (e : ErrCode) (w : Word) (s : State) : (raiseErr e w s).srcp.errcmd = w := by
  cases e <;> rfl

/-- STATUS below its error bits (10_state.md R24): no error bit is read there. -/
theorem getLsbD_statusWord_of_no_err (r : Srcp) {i : Nat} (hi : i < 32) (he : ∀ d, i ≠ errBit d) :
    (statusWord r).getLsbD i =
      if i = 0 then r.busy else if i < 4 then (lstateCode r.lstate).getLsbD (i - 1)
      else if i = 4 then r.rawValid else false := by
  have h8 : i ≠ 8 := he .resource
  have h9 : i ≠ 9 := he .alloc
  have h10 : i ≠ 10 := he .illegal
  have h11 : i ≠ 11 := he .busy
  have h12 : i ≠ 12 := he .state
  rw [getLsbD_statusWord r hi, if_neg h8, if_neg h9, if_neg h10, if_neg h11, if_neg h12]

/-- What raising e does to STATUS (60_exceptions.md R153): its own bit is set, BUSY falls where e ends the command. -/
theorem getLsbD_statusWord_raiseErr (e : ErrCode) (w : Word) (s : State) {i : Nat} (hi : i < 32) :
    (statusWord (raiseErr e w s).srcp).getLsbD i =
      if i = errBit e then true
      else if i = 0 ∧ (e = .resource ∨ e = .alloc) then false else (statusWord s.srcp).getLsbD i := by
  by_cases he : ∃ d, i = errBit d
  · obtain ⟨d, rfl⟩ := he
    rw [getLsbD_statusWord_errBit, getLsbD_statusWord_errBit, hasErr_raiseErr]
    by_cases hd : d = e <;> simp [errBit_inj, errBit_pos, hd]
  · have hno (d : ErrCode) : i ≠ errBit d := fun h => he ⟨d, h⟩
    obtain ⟨-, hlstate, -, -, -, hvalid⟩ := raiseErr_keeps e w s
    rw [if_neg (hno e), getLsbD_statusWord_of_no_err _ hi hno, getLsbD_statusWord_of_no_err _ hi hno,
      (raiseErr_ends e w s).1, hlstate, hvalid]
    by_cases h0 : i = 0 <;> simp [h0]

/-- Settles O21, register by register. -/
theorem raisingAnErrorWritesItsBit : Obligations.RaisingAnErrorWritesItsBit := by
  intro s e w
  obtain ⟨hcur, hlstate, hshift, hevt, hdcnt, -⟩ := raiseErr_keeps e w s
  exact ⟨(raiseErr e w s).srcp, rfl, raiseErr_errcmd e w s, fun i hi => getLsbD_statusWord_raiseErr e w s hi,
    (raiseErr_ends e w s).2, hcur, hlstate, hshift, hevt, hdcnt, raiseErr_raw e w s, owned_raiseErr e w s,
    rfl, rfl, rfl, rfl, rfl⟩

/-! ### A command out of place -/

theorem issue_of_not_legal {op : Op} {s : State} (w : Word) (f : Srcp → Srcp) (hb : s.srcp.busy = false)
    (hl : legal op s.srcp.lstate s.srcp.rawValid = false) : issue op w f s = raiseErr .state w s := by
  rw [issue, hb, hl, if_neg Bool.false_ne_true, if_neg Bool.false_ne_true]

/-- The column of 60_exceptions.md R152's table in which SRCP holds no line. -/
theorem not_linesHeld_iff (l : LState) : linesHeld l = false ↔ l ∈ [LState.unconfigured, .tornDown, .failed] := by
  cases l <;> decide

/-- A command whose cell of 60_exceptions.md R152's table says STATE, with BUSY = 0. -/
theorem exec_out_of_place {i : Instr} {w : Word} {s : State} {op : Op} {f : Srcp → Srcp} (hb : s.srcp.busy = false)
    (hx : exec i s = .next (issue op w f s)) (hl : legal op s.srcp.lstate s.srcp.rawValid = false) :
    exec i s = .next { s with srcp := { s.srcp with errState := true, errcmd := w } } := by
  rw [hx, issue_of_not_legal w f hb hl, raiseErr_state]

/-- Settles O20, row by row of the table. -/
theorem outOfPlaceCommandRaisesErrState : Obligations.OutOfPlaceCommandRaisesErrState := by
  intro s i w hb hw hcell
  rcases hcell with ⟨rfl, hl⟩ | ⟨rfl, hl⟩ | ⟨rfl, hl⟩ | ⟨rfl, hl⟩ | ⟨⟨imm, rfl⟩, hl⟩ <;> cases hw
  case inl => exact exec_out_of_place (op := .configure) hb rfl (by rw [hl]; rfl)
  case inr.inl => exact exec_out_of_place (op := .idle) hb rfl ((not_linesHeld_iff _).2 hl)
  case inr.inr.inl =>
    have hready : s.srcp.lstate ≠ .ready := fun h => by rw [h] at hl; revert hl; decide
    exact exec_out_of_place (op := .poll) hb rfl (beq_false_of_ne hready)
  case inr.inr.inr.inl =>
    refine exec_out_of_place (op := .decode) hb rfl ?_
    rw [legal]
    rcases hl with hl | hv
    · rw [(not_linesHeld_iff _).2 hl, Bool.false_and]
    · rw [hv, Bool.and_false]
  case inr.inr.inr.inr => exact exec_out_of_place (op := .decodeImm) hb rfl ((not_linesHeld_iff _).2 hl)

end Sys2Proof.Machine
end

section
/-! Between commands SRCP is quiet (60_exceptions.md R167, 40_line_ops.md R97): a command's check and acceptance, and
what the outside does, use neither the GPIO bus nor SINK, and make no draw. -/

namespace Sys2Proof.Machine

/-- From s to t no beat was delivered, no draw made and no tick waited. -/
structure NoBeatNoDraw (s t : State) : Prop where
  delivered : t.delivered = s.delivered
  env : t.env = s.env
  waited : t.waited = s.waited

/-- A command is taken or turned away by a write of SRCP's registers alone (60_exceptions.md R151). -/
theorem issue_eq_srcp (op : Op) (w : Word) (f : Srcp → Srcp) (s : State) :
    issue op w f s = { s with srcp := (issue op w f s).srcp } := by
  rcases issue_cases op w f s with ⟨-, he⟩ | ⟨-, -, he⟩ | ⟨-, -, he⟩ <;> rw [he] <;> rfl

theorem CommandRuns.noBeatNoDraw {s t : State} (h : CommandRuns s t) : NoBeatNoDraw s t := by
  obtain ⟨rest, w, i, -, -, hd, hx⟩ := h
  obtain ⟨op, imm, hexec⟩ := exec_command ((decodeCommand_iff_encode w i).1 hd)
  rw [hexec] at hx
  cases hx
  rw [issue_eq_srcp]
  exact ⟨rfl, rfl, rfl⟩

/-- Not even another agent's write brings a beat or a draw. -/
theorem OutsideActs.noBeatNoDraw {s t : State} (h : OutsideActs s t) : NoBeatNoDraw s t := by
  rcases h with ⟨rest, rs, rfl⟩ | ⟨rest, w, -, -, rfl⟩ | ⟨rest, v, -, -, rfl⟩ | ⟨rest, -, rfl⟩ | ⟨rest, -, rfl⟩ |
    ⟨rest, b, -, rfl⟩ | ⟨rest, a, v, -, rfl⟩ <;> exact ⟨rfl, rfl, rfl⟩

/-- SEQ runs a micro-operation only in its own turn, with BUSY = 1 and RESET released. -/
theorem SeqRuns.in_turn {s t : State} (h : SeqRuns s t) :
    seqsTurn s = true ∧ s.resetLine = false ∧ s.srcp.busy = true := by
  obtain ⟨hturn, -, -, -, hr, hb, -⟩ := h
  exact ⟨hturn, hr, hb⟩

/-- Settles O60: such a step is HOST's command or the outside's, and only another agent's write reaches the GPIO register
file in either. -/
theorem noAccessAndNoBeatBetweenCommands : Obligations.NoAccessAndNoBeatBetweenCommands := by
  intro s t hquiet hu hstep
  rcases step_cases hstep with hseq | hcmd | hout
  · obtain ⟨hturn, hr, hb⟩ := hseq.in_turn
    simp [hturn, hr, hb] at hquiet
  · obtain ⟨hdelivered, henv, hwaited⟩ := hcmd.noBeatNoDraw
    exact ⟨hcmd.gpio_eq, hdelivered, henv, hwaited⟩
  · obtain ⟨hdelivered, henv, hwaited⟩ := hout.noBeatNoDraw
    exact ⟨hout.gpio_eq hu, hdelivered, henv, hwaited⟩

end Sys2Proof.Machine
end

section
/-! Who writes LSTATE (10_state.md R32, 60_exceptions.md R152): RESET, TEARDOWN's acceptance where no line is held, SEQ's
last micro-operation of CONFIGURE, IDLE and TEARDOWN, and the end of a CONFIGURE that has failed. -/

namespace Sys2Proof.Machine

/-! ### HOST's commands and the outside -/

/-- Taking a command writes LSTATE only where its acceptance does. -/
theorem issue_lstate {f : Srcp → Srcp} (hf : ∀ r, (f r).lstate = r.lstate) (op : Op) (w : Word) (s : State) :
    (issue op w f s).srcp.lstate = s.srcp.lstate := by
  rcases issue_cases op w f s with ⟨-, he⟩ | ⟨-, -, he⟩ | ⟨-, -, he⟩ <;> rw [he]
  · rfl
  · rfl
  · exact hf _

/-- TEARDOWN where no line is held ends at once (41_pin_config.md R103). -/
theorem exec_teardown_lstate {s t : State} (hx : exec .teardown s = .next t) :
    t.srcp.lstate = s.srcp.lstate ∨
    (s.srcp.busy = false ∧ linesHeld s.srcp.lstate = false ∧ t.srcp.lstate = .tornDown) := by
  cases hx
  rcases issue_cases .teardown (encodeWord .teardown) beginTeardown s with ⟨-, he⟩ | ⟨-, -, he⟩ | ⟨hb, -, he⟩ <;> rw [he]
  · exact .inl rfl
  · exact .inl rfl
  · cases hl : linesHeld s.srcp.lstate
    · rw [beginTeardown_not_held (r := { s.srcp with cur := .teardown }) hl]
      exact .inr ⟨hb, rfl, rfl⟩
    · rw [beginTeardown_held (r := { s.srcp with cur := .teardown }) hl]
      exact .inl rfl

/-- No other command's acceptance writes LSTATE. -/
theorem exec_command_lstate {i : Instr} {w : Word} {s t : State} (hw : encode i = .command w) (hi : i ≠ .teardown)
    (hx : exec i s = .next t) : t.srcp.lstate = s.srcp.lstate := by
  cases i <;> simp only [encode, reduceCtorEq] at hw
  case teardown => exact absurd rfl hi
  all_goals
    cases hx
    refine issue_lstate ?_ _ _ s
    exact fun _ => rfl

theorem CommandRuns.lstate_cases {s t : State} (h : CommandRuns s t) :
    t.srcp.lstate = s.srcp.lstate ∨
    (t.srcp.lstate = .tornDown ∧ linesHeld s.srcp.lstate = false ∧ s.resetLine = false ∧ s.srcp.busy = false ∧
      ∃ rest, s.inputs = hostWord s.params 0x00 0x00000006#32 :: rest) := by
  obtain ⟨rest, w, i, hr, hi, hd, hx⟩ := h
  have hw := (decodeCommand_iff_encode w i).1 hd
  by_cases hteardown : i = .teardown
  · subst hteardown
    cases hw
    rcases exec_teardown_lstate hx with hsame | ⟨hb, hl, ht⟩
    · exact .inl hsame
    · exact .inr ⟨ht, hl, hr, hb, rest, hi⟩
  · have hsame := exec_command_lstate hw hteardown hx
    exact .inl hsame

/-- Of what the outside does, only RESET writes LSTATE. -/
theorem OutsideActs.lstate_cases {s t : State} (h : OutsideActs s t) :
    t.srcp.lstate = s.srcp.lstate ∨ (t.srcp.lstate = .unconfigured ∧ ∃ rest, s.inputs = .resetAssert :: rest) := by
  rcases h.srcp_cases with ht | haway | ⟨v, rest, -, ht⟩ | ⟨rest, hi, ht⟩
  · exact .inl (by rw [ht])
  · exact .inl haway.samePlace.lstate
  · exact .inl (by rw [ht, clearErrs_lstate])
  · exact .inr ⟨by rw [ht]; rfl, rest, hi⟩

/-! ### SEQ -/

/-- The completion effects that write LSTATE (41_pin_config.md R101 to R103). -/
theorem completion_lstate_cases (r : Srcp) :
    (completion r).lstate = r.lstate ∨
    (r.cur = .configure ∧ (r.lstate = .unconfigured ∨ r.lstate = .tornDown) ∧ (completion r).lstate = .configured) ∨
    (r.cur = .idle ∧ (completion r).lstate = .ready) ∨
    (r.cur = .teardown ∧ (completion r).lstate = .tornDown) := by
  cases hc : r.cur
  case configure => cases hl : r.lstate <;> simp [completion, hc, hl]
  all_goals simp [completion, hc]

/-- From r to r' the last micro-operation of op brings LSTATE from one of `before` to `after`. -/
structure EndsIn (r r' : Srcp) (op : Op) (before : List LState) (after : LState) : Prop where
  cur : r.cur = op
  at_last : r.upc.toNat + 1 = (microprogram op).length
  lstate_before : r.lstate ∈ before
  lstate_after : r'.lstate = after

/-- The command that ends writes LSTATE, in a state where 60_exceptions.md R152 accepts it. -/
def LstateEnd (r r' : Srcp) : Prop :=
  EndsIn r r' .configure [.unconfigured, .tornDown] .configured ∨
  EndsIn r r' .idle [.configured, .ready] .ready ∨
  EndsIn r r' .teardown [.configured, .ready] .tornDown

/-- SEQ's move writes LSTATE only at the end of CONFIGURE, IDLE or TEARDOWN (10_state.md R32; log 8). -/
theorem advance_lstate_cases {r : Srcp} (hu : r.upc.toNat < (microprogram r.cur).length) (hrun : runsLegally r) :
    (advance r).lstate = r.lstate ∨ LstateEnd r (advance r) := by
  rcases Nat.lt_or_ge (r.upc.toNat + 1) (microprogram r.cur).length with hin | hlast
  · rw [advance_inside r hin]
    exact .inl rfl
  · have hend : r.upc.toNat + 1 = (microprogram r.cur).length := Nat.le_antisymm hu hlast
    rw [advance_last r hlast]
    rcases completion_lstate_cases r with hsame | ⟨hc, hl, ht⟩ | ⟨hc, ht⟩ | ⟨hc, ht⟩
    · exact .inl hsame
    all_goals rw [hc] at hend; simp only [runsLegally, hc] at hrun
    · exact .inr (.inl ⟨hc, hend, by simpa using hl, ht⟩)
    · exact .inr (.inr (.inl ⟨hc, hend, by simpa using (linesHeld_iff _).1 hrun, ht⟩))
    · exact .inr (.inr (.inr ⟨hc, hend, by simpa using (linesHeld_iff _).1 hrun, ht⟩))

/-- The same, where the micro-operation wrote DCNT, SHIFT and OWNED before SEQ moved on. -/
theorem LifecycleInv.advance_lstate_cases {r r' : Srcp} (h : LifecycleInv r) (hb : r.busy = true)
    (hw : WorkRegsOnly r r') : (advance r').lstate = r.lstate ∨ LstateEnd r (advance r') := by
  have hu : r'.upc.toNat < (microprogram r'.cur).length := by
    rw [hw.upc_eq, hw.cur_eq]
    exact h.upc_inside hb
  have back {op before after} (he : EndsIn r' (advance r') op before after) : EndsIn r (advance r') op before after :=
    ⟨hw.cur_eq ▸ he.cur, hw.upc_eq ▸ he.at_last, hw.samePlace.lstate ▸ he.lstate_before, he.lstate_after⟩
  rcases Machine.advance_lstate_cases hu (hw.runsLegally (h.runs_legally hb)) with hsame | he | he | he
  · exact .inl (hsame.trans hw.samePlace.lstate)
  · exact .inr (.inl (back he))
  · exact .inr (.inr (.inl (back he)))
  · exact .inr (.inr (.inr (back he)))

/-- In t a CONFIGURE that has failed on its acquiring path has ended (41_pin_config.md R101; log 9). -/
structure FailedFrom (s t : State) : Prop where
  cur : s.srcp.cur = .configure
  not_held : linesHeld s.srcp.lstate = false
  ends : ∃ e u, (e = .resource ∨ e = .alloc) ∧ t = failConfigure e u

/-- SEQ stays, moves on, or ends a CONFIGURE that has failed. -/
theorem SeqRuns.moves_or_fails {s t : State} (h : LifecycleInv s.srcp) (hseq : SeqRuns s t) :
    t.srcp.lstate = s.srcp.lstate ∨ (∃ r, WorkRegsOnly s.srcp r ∧ t.srcp = advance r) ∨ FailedFrom s t := by
  obtain ⟨-, rest, b, i, -, hb, hf, hd, hx⟩ := hseq
  cases hn : nextRelease s with
  | some l =>
    obtain ⟨hc, hl, -, -⟩ := nextRelease_some hn
    rw [exec_release hn hf hd hx]
    rcases releaseLine_cases l (askSink { s with inputs := rest }) with ⟨hcc, -⟩ | ⟨-, -, ha⟩ | ⟨-, -, ha⟩
    · exact absurd hc hcc
    · refine .inr (.inr ⟨hc, hl, _, _, ?_, ha⟩)
      rcases releaseError_cases s.srcp with ⟨-, -, he⟩ | ⟨-, he⟩
      · exact .inr he
      · exact .inl he
    · rw [ha]
      exact .inl (WorkRegsOnly.setOwned l false s.srcp).samePlace.lstate
  | none =>
    rw [fetch_microprogram hn] at hf
    rcases microprogram_place_cases hf hd with ⟨hplain, -, -⟩ | ⟨hc, l, hu, he⟩ | ⟨hc, l, -, he⟩
    · rcases exec_microOp_srcp hd hx with ⟨d, v, -, ht | ht⟩ | ⟨hacq, -⟩ | ⟨hrel, -⟩
      · exact .inl (by rw [ht]; rfl)
      · exact .inr (.inl ⟨_, .dcnt_shift d v s.srcp, ht⟩)
      · exact absurd (List.mem_append_left _ hacq : i ∈ ownedWriters) hplain
      · exact absurd (List.mem_append_right _ hrel : i ∈ ownedWriters) hplain
    · cases (he _).symm.trans hx
      have hl := (h.atLacq hb (h.not_lineMissing hb hn) hc hu).not_held
      rcases acquireLine_cases l (askSink { s with inputs := rest }) with ⟨-, ha⟩ | ⟨-, -, ha⟩ | ⟨-, -, ha⟩ <;> rw [ha]
      · exact .inr (.inl ⟨_, .refl s.srcp, rfl⟩)
      · exact .inr (.inl ⟨_, .setOwned l true s.srcp, rfl⟩)
      · rcases denyLine_cases { askSink { s with inputs := rest } with
          env := tookGrant (askSink { s with inputs := rest }).env } with ⟨-, ha⟩ | ⟨-, ha⟩ <;> rw [ha]
        · exact .inr (.inr ⟨hc, hl, .resource, _, .inl rfl, rfl⟩)
        · exact .inr (.inl ⟨_, .refl s.srcp, rfl⟩)
    · cases (he _).symm.trans hx
      rcases releaseLine_cases l (askSink { s with inputs := rest }) with ⟨-, ha⟩ | ⟨hcc, -⟩ | ⟨hcc, -⟩
      · rw [ha]
        exact .inr (.inl ⟨_, .setOwned l false s.srcp, rfl⟩)
      · cases hc.symm.trans hcc
      · cases hc.symm.trans hcc

/-- A failed CONFIGURE leaves FAILED, BUSY = 0 and its error (60_exceptions.md R155). -/
theorem FailedFrom.outcome {s t : State} (h : FailedFrom s t) :
    t.srcp.lstate = .failed ∧ t.srcp.busy = false ∧ (t.srcp.errResource = true ∨ t.srcp.errAlloc = true) := by
  obtain ⟨-, -, e, u, rfl | rfl, rfl⟩ := h
  · exact ⟨rfl, rfl, .inl rfl⟩
  · exact ⟨rfl, rfl, .inr rfl⟩

/-- A CONFIGURE that acquires runs in UNCONFIGURED or TORN_DOWN (60_exceptions.md R152). -/
theorem FailedFrom.lstate_before {s t : State} (h : FailedFrom s t) (hrun : runsLegally s.srcp) :
    s.srcp.lstate = .unconfigured ∨ s.srcp.lstate = .tornDown := by
  obtain ⟨hc, hl, -⟩ := h
  simp only [runsLegally, hc] at hrun
  obtain ⟨hf, -⟩ := hrun
  simpa [hf] using (not_linesHeld_iff _).1 hl

/-- What SEQ's turn comes to, as far as LSTATE goes. -/
theorem SeqRuns.lstate_cases {s t : State} (h : LifecycleInv s.srcp) (hseq : SeqRuns s t) :
    t.srcp.lstate = s.srcp.lstate ∨ LstateEnd s.srcp t.srcp ∨ FailedFrom s t := by
  obtain ⟨-, -, hb⟩ := hseq.in_turn
  rcases hseq.moves_or_fails h with hsame | ⟨r, hw, ht⟩ | hfail
  · exact .inl hsame
  · rw [ht]
    exact (h.advance_lstate_cases hb hw).imp_right .inl
  · exact .inr (.inr hfail)

/-- SEQ ends a command from the last place of its microprogram. -/
theorem SeqRuns.runsAt_last {s t : State} (hseq : SeqRuns s t) {op : Op} {before : List LState} {after : LState}
    (he : EndsIn s.srcp t.srcp op before after) {n : Nat} (hn : (microprogram op).length = n + 1) :
    seqRunsAt s op n := by
  obtain ⟨hturn, hr, hb⟩ := hseq.in_turn
  exact ⟨hturn, hr, hb, he.cur, Nat.succ.inj (he.at_last.trans hn)⟩

/-- Settles O57, by the three kinds of step. -/
theorem lstateChangesOnlyAsTheTableSays : Obligations.LstateChangesOnlyAsTheTableSays := by
  intro s t h hstep hne
  rcases step_cases hstep with hseq | hcmd | hout
  · rcases (hseq.lstate_cases h).resolve_left hne with (he | he | he) | hfail
    · exact .inr (.inl ⟨he.lstate_after, by simpa using he.lstate_before, hseq.runsAt_last he rfl⟩)
    · rw [he.lstate_after] at hne
      have hbefore : s.srcp.lstate = .configured := by simpa [hne.symm] using he.lstate_before
      exact .inr (.inr (.inr (.inl ⟨he.lstate_after, hbefore, hseq.runsAt_last he rfl⟩)))
    · exact .inr (.inr (.inr (.inr (.inl
        ⟨he.lstate_after, by simpa using he.lstate_before, hseq.runsAt_last he rfl⟩))))
    · obtain ⟨hturn, hr, hb⟩ := hseq.in_turn
      obtain ⟨hfailed, hidle, herr⟩ := hfail.outcome
      have hbefore := hfail.lstate_before (h.runs_legally hb)
      exact .inr (.inr (.inl ⟨hfailed, hbefore, hturn, hr, hb, hfail.cur, hidle, herr⟩))
  · obtain ⟨ht, hl, hr, hb, hi⟩ := hcmd.lstate_cases.resolve_left hne
    rw [ht] at hne
    have hbefore : s.srcp.lstate = .unconfigured ∨ s.srcp.lstate = .failed := by
      simpa [hne.symm] using (not_linesHeld_iff _).1 hl
    exact .inr (.inr (.inr (.inr (.inr ⟨ht, hbefore, hr, hb, hi⟩))))
  · exact .inl (hout.lstate_cases.resolve_left hne)

end Sys2Proof.Machine
end

section
/-! RESET and hazards (70_reset_and_hazards.md): what asserting and holding RESET does (R180 to R182), the machine between
commands (R183), and a beat the sink does not take (R190). -/

namespace Sys2Proof.Machine

/-! ### Asserting RESET -/

/-- Settles O6: asserting RESET is a turn of its own, in which no command's state is looked at. -/
theorem resetAbortsAndKeepsTheOutside : Obligations.ResetAbortsAndKeepsTheOutside := by
  intro s rest hi
  refine ⟨?_, rfl, by decide⟩
  rw [step, nextTurn, hi]
  rfl

/-! ### While RESET is held -/

/-- While RESET is held HOST reads the reset values, whatever the registers hold (R180). -/
theorem readable_of_held {s : State} (h : s.resetLine = true) : readable s = Srcp.reset := by
  simp [readable, h]

/-- Settles O7: a read answers from the reset values, a write is acknowledged and goes no further (log 16). -/
theorem hostAccessWhileResetIsHeld : Obligations.HostAccessWhileResetIsHeld := by
  intro s off v rest hr hlt h4
  constructor
  · intro hi
    rw [step, nextTurn_hostFetch hlt h4 hi, readable_of_held hr]
    rfl
  · intro hi
    rw [step, nextTurn_hostWord hlt h4 hi, if_pos hr]
    rfl

/-- SEQ runs only with RESET released, and no micro-operation moves the RESET line. -/
theorem SeqRuns.released {s t : State} (h : SeqRuns s t) : t.resetLine = false := by
  obtain ⟨-, rest, b, i, hr, -, -, -, hx⟩ := h
  exact (exec_outside hx).resetLine.trans hr

/-- HOST's command is taken only with RESET released, and no command moves the RESET line. -/
theorem CommandRuns.released {s t : State} (h : CommandRuns s t) : t.resetLine = false := by
  obtain ⟨rest, w, i, hr, -, -, hx⟩ := h
  exact (exec_outside hx).resetLine.trans hr

/-- After the outside's turn SRCP is in its reset state, or RESET is released, or neither SRCP nor the RESET line moved. -/
theorem OutsideActs.reset_cases {s t : State} (h : OutsideActs s t) :
    t.srcp = Srcp.reset ∨ t.resetLine = false ∨ (t.resetLine = s.resetLine ∧ t.srcp = s.srcp) := by
  rcases h with ⟨rest, rs, rfl⟩ | ⟨rest, w, hr, -, rfl⟩ | ⟨rest, v, hr, -, rfl⟩ | ⟨rest, -, rfl⟩ | ⟨rest, -, rfl⟩ |
    ⟨rest, b, -, rfl⟩ | ⟨rest, a, v, -, rfl⟩
  case inr.inl => exact .inr (.inl hr)
  case inr.inr.inl => exact .inr (.inl hr)
  case inr.inr.inr.inl => exact .inl rfl
  case inr.inr.inr.inr.inl => exact .inr (.inl rfl)
  all_goals exact .inr (.inr ⟨rfl, rfl⟩)

/-- The same of every step: SRCP's instructions run only with RESET released. -/
theorem step_reset_cases {s t : State} (h : step s = .next t) :
    t.srcp = Srcp.reset ∨ t.resetLine = false ∨ (t.resetLine = s.resetLine ∧ t.srcp = s.srcp) := by
  rcases step_cases h with hseq | hcmd | hout
  · exact .inr (.inl hseq.released)
  · exact .inr (.inl hcmd.released)
  · exact hout.reset_cases

/-- Settles O53: where RESET is held after the step, SRCP was reset in it or is as it was with RESET held before. -/
theorem everyStepKeepsResetWhileHeld : Obligations.EveryStepKeepsResetWhileHeld := by
  intro s t hinv hstep hheld
  rcases step_reset_cases hstep with hreset | hreleased | ⟨hline, hsrcp⟩
  · exact hreset
  · exact absurd hheld (Bool.eq_false_iff.mp hreleased)
  · exact hsrcp.trans (hinv (hline.symm.trans hheld))

/-! ### Between commands -/

/-- With BUSY = 0 SEQ's turn leaves everything as it is (R183). -/
theorem seqTurn_of_not_busy {s : State} (h : s.srcp.busy = false) : seqTurn s = .settled s := by
  rw [seqTurn, h, Bool.not_false, Bool.or_true, if_pos rfl]

/-- Settles O8: with nothing pending the turn is SEQ's. -/
theorem nothingRunsBetweenCommands : Obligations.NothingRunsBetweenCommands := by
  intro s hb hi
  rw [step, nextTurn, hi]
  exact congrArg takeTurn (seqTurn_of_not_busy hb)

/-! ### A sink that is not ready -/

/-- Where SINK is not ready, a tick of a decode takes the draw and leaves the beat on offer (R190; log 13). -/
theorem Running.step_stalled {s : State} {op : Op} {n : Nat} (h : Running s op n) (hop : op = .decode ∨ op = .decodeImm)
    (hn : n < 11) (hready : nextReady s.env = false) : step s = .next { s with env := tookReady s.env } := by
  have hbyte : (microprogram op)[n]? = some 0xE0#8 := by
    rcases hop with rfl | rfl <;> exact List.getElem?_replicate_of_lt hn
  have hemit : step s = exec .emit s := h.step_eq (by rcases hop with rfl | rfl <;> nofun) hbyte rfl
  rw [hemit]
  exact (emitTransfersWhenTheSinkIsReady s).2 hready

/-- Any number of such ticks. -/
theorem Running.runFor_stalled {s : State} {op : Op} {n : Nat} (h : Running s op n)
    (hop : op = .decode ∨ op = .decodeImm) (hn : n < 11) {k : Nat}
    (hstall : ∀ m, m < k → nextReady (times tookReady m s.env) = false) :
    runFor k s = .next { s with env := times tookReady k s.env } := by
  induction k generalizing s with
  | zero => rfl
  | succ k ih =>
    have hwait : Running { s with env := tookReady s.env } op n := ⟨h.pending, h.released, h.busy, h.cur, h.upc⟩
    rw [runFor_of_step (h.step_stalled hop hn (hstall 0 k.succ_pos))]
    exact ih hwait fun m hm => hstall (m + 1) (Nat.succ_lt_succ hm)

/-- In a decode the beat on offer is the word of its place (43_decode.md R136). -/
theorem evt_on_offer {r : Srcp} (hb : r.busy = true) (hc : r.cur = .decode ∨ r.cur = .decodeImm) :
    evtValid r = true ∧ evtData r = evword r.evtSrc r.upc.toNat := by
  have hvalid : evtValid r = true := by rcases hc with hc | hc <;> simp [evtValid, hb, hc]
  exact ⟨hvalid, if_pos hvalid⟩

/-- Settles O49, by induction on the stalled ticks; the beat on offer is read off registers that none of them writes. -/
theorem stalledSinkHoldsTheBeat : Obligations.StalledSinkHoldsTheBeat := by
  intro s n hi hr hb hc hu hstall
  have hrun : Running s s.srcp.cur s.srcp.upc.toNat := ⟨hi, hr, hb, rfl, by simp⟩
  exact ⟨hrun.runFor_stalled hc (Nat.lt_succ_of_le hu) hstall, evt_on_offer hb hc⟩

end Sys2Proof.Machine
end
